-- ==== Sys2Proof/Word.lean ====
section
/-! DEFINITION. Words, bytes and the fixed-size byte strings of descriptors (rules R7, R22, R25, R27).

A descriptor is a string of 16 or 32 bytes made of 32-bit words; word `Wn` occupies bytes `4n .. 4n+3`
(rule R25).  A byte string is therefore kept as its 4-byte words, byte 0 (the lowest address) first. -/

namespace Sys2Proof

/-- A `u8`. -/
abbrev Byte := BitVec 8

/-- A `u32`: every word, address, count and pointer of the codec (parameters `WORD_W` and `ADDR_W` of rule R6). -/
abbrev Word := BitVec 32

/-- Four bytes, the one at the lowest address first. -/
structure Quad where
  b0 : Byte
  b1 : Byte
  b2 : Byte
  b3 : Byte
deriving DecidableEq, Repr

/-- `Bytes16` of rule R22: exactly 16 bytes, one slot, as its words `W0 .. W3`. -/
structure Bytes16 where
  w0 : Quad
  w1 : Quad
  w2 : Quad
  w3 : Quad
deriving DecidableEq, Repr

/-- `Bytes32` of rule R22: exactly 32 bytes, two slots, the one at the lower address first. -/
structure Bytes32 where
  first  : Bytes16
  second : Bytes16
deriving DecidableEq, Repr

/-- `zeros(4)` of rule R7. -/
def Quad.zeros : Quad := ⟨0, 0, 0, 0⟩

/-- `zeros(16)` of rule R7. -/
def Bytes16.zeros : Bytes16 := ⟨.zeros, .zeros, .zeros, .zeros⟩

end Sys2Proof
end

