-- ==== Sys2Proof/Config.lean ====
section
/-! DEFINITION. The configuration record of rule R6.

A parameter that is a decision of the spec (`92_eei_decisions.md`) is a field of `Config`, so that a claim can quantify
over it; its default value, and the parameters whose values the source gives, are in `Machine/Parameters.lean`.  The
open parameter is an opaque constant. -/

namespace Sys2Proof

/-- A byte order (rules R6, R25). -/
inductive ByteOrder where
  | littleEndian
  | bigEndian
deriving DecidableEq, Repr

/-- The place of a header word after the control word: `W1`, `W2` or `W3` (rules R44, R45, R47). -/
inductive WordPlace where
  | w1
  | w2
  | w3
deriving DecidableEq, Repr

/-- The parameters of rule R6 that the spec decides.  They are constant for the life of the block (rule R18). -/
structure Config where
  /-- `CMD_OUTPUT_MORE` (D10). -/
  cmdOutputMore : BitVec 4
  /-- `CMD_STORE_VALUE` (D10). -/
  cmdStoreValue : BitVec 4
  /-- `KEY_STANDARD` (D10). -/
  keyStandard : BitVec 3
  /-- `KEY_STORE` (D10). -/
  keyStore : BitVec 3
  /-- `B_ALWAYS`, the branch field of a terminal descriptor (D11). -/
  bAlways : BitVec 2
  /-- `B_NEVER`, the branch field of a non-terminal descriptor (D11). -/
  bNever : BitVec 2
  /-- `HDR_ORDER`, the byte order of the header words (D5). -/
  hdrOrder : ByteOrder
  /-- `IMM_ORDER`, the byte order of the inline quadlets (D6). -/
  immOrder : ByteOrder
  /-- `W_DATA`, where a 16-byte descriptor holds its data address (D7, D9). -/
  wData : WordPlace
  /-- `W_BRANCH`, where a 16-byte descriptor holds its branch or skip pointer (D7, D9). -/
  wBranch : WordPlace
  /-- `W_STATUS`, where a terminal 16-byte descriptor holds its status word (D7, D21). -/
  wStatus : WordPlace
  /-- `W_IMM_PTR`, where an immediate header holds its one pointer (D8). -/
  wImmPtr : WordPlace
  /-- `IMM_REQ`, the count of an immediate descriptor (D12). -/
  immReq : BitVec 16
  /-- `CHECK_DATA_ALIGN`, whether a data address must be 16-byte aligned (D13). -/
  checkDataAlign : Bool
  /-- `EVT_NO_STATUS` (D22). -/
  evtNoStatus : Byte
  /-- `EVT_ACK_COMPLETE` (D22). -/
  evtAckComplete : Byte
  /-- `EVT_ACK_PENDING` (D22). -/
  evtAckPending : Byte
  /-- `ST_XFER_HI`, whether the transfer status is the high half of the status word (D21). -/
  stXferHi : Bool
deriving DecidableEq, Repr

namespace Config

/-- Bits 31:4 of the open parameter `SENTINEL_ADDR` (rule R6, D27): a free value with no body. -/
opaque sentinelHigh : BitVec 28

/-- `SENTINEL_ADDR`: a 16-byte-aligned address of which nothing else is known.  The codec never reads it
(rule R6); it is named for a requester that models the Linker.  DESIGN CHOICE, assumption log entry 12. -/
def sentinelAddr : Word := sentinelHigh.setWidth 32 <<< 4

end Config

end Sys2Proof
end

