-- ==== Sys2Proof/Machine/Parameters.lean ====
section
/-! DEFINITION. The values of the parameters of rule R6: the defaults of those the spec decides, and those the source
gives. -/

namespace Sys2Proof

namespace Config

/-- The defaults of rule R6.  DESIGN CHOICE of the spec, assumption log entry 2. -/
def default : Config where
  cmdOutputMore  := 0
  cmdStoreValue  := 8
  keyStandard    := 0
  keyStore       := 6
  bAlways        := 3
  bNever         := 0
  hdrOrder       := .littleEndian
  immOrder       := .bigEndian
  wData          := .w1
  wBranch        := .w2
  wStatus        := .w3
  wImmPtr        := .w1
  immReq         := 8
  checkDataAlign := false
  evtNoStatus    := 0x00
  evtAckComplete := 0x11
  evtAckPending  := 0x12
  stXferHi       := true

/-- `CMD_OUTPUT_LAST`, given by the source (rule R6). -/
def cmdOutputLast : BitVec 4 := 1

/-- `KEY_IMMEDIATE`, given by the source (rule R6). -/
def keyImmediate : BitVec 3 := 2

/-- `UNINIT_BYTE`, given by the source (rule R6). -/
def uninitByte : Byte := 0xDE

/-- `SLOT`, the bytes of one descriptor slot, given by the source (rule R6). -/
def slotBytes : Nat := 16

end Config

end Sys2Proof
end

