-- ==== Sys2Proof/Machine/Types.lean ====
section
/-! DEFINITION. The abstract values of requests and responses (rules R11, R12, R16, R22, R125). -/

namespace Sys2Proof

/-- `Fields` of rule R22.  The reserved bits are not part of it (rule R62); a response carries them beside it (`Result`). -/
structure Fields where
  cmd      : BitVec 4
  s        : BitVec 1
  key      : BitVec 3
  i        : BitVec 2
  b        : BitVec 2
  w        : BitVec 2
  reqCount : BitVec 16
deriving DecidableEq, Repr

/-- The control bits of a descriptor that do not take part in the selection of its variant (rule R102):
status-write, reserved, interrupt, branch and wait. -/
structure Controls where
  s   : BitVec 1
  rsv : BitVec 2
  i   : BitVec 2
  b   : BitVec 2
  w   : BitVec 2
deriving DecidableEq, Repr

/-- `Kind` of rule R22. -/
inductive Kind where
  | storeValue
  | outputMore
  | outputMoreImmediate
  | outputLast
  | outputLastImmediate
  | outputLastSkip
  | unknown
deriving DecidableEq, Repr

/-- `PtrClass` of rule R22. -/
inductive PtrClass where
  | stop
  | nullNonzeroZ
  | valid
deriving DecidableEq, Repr

/-- What the table of rule R103 says a word `W1 .. W3` of a slot is. -/
inductive WordRole where
  | dataAddress
  | skipPointer
  | branchPointer
  | statusWord
  | reserved
  | notInterpreted
  | noReading
deriving DecidableEq, Repr

/-- `Err` of rule R125, each with the `info` value the rule records. -/
inductive Err where
  | fieldOverflow     (reqCount : Word)
  | misalignedAddress (addr : Word)
  | illegalOp         (op : BitVec 5)
deriving DecidableEq, Repr

/-- The eight response flags of rule R16; each is off unless a rule sets it. -/
structure Flags where
  zMismatch      : Bool := false
  rsvdNonzero    : Bool := false
  nullNonzeroZ   : Bool := false
  stop           : Bool := false
  uninit         : Bool := false
  secondHalf     : Bool := false
  outOfRange     : Bool := false
  baseMisaligned : Bool := false
deriving DecidableEq, Repr

/-- No flag set. -/
def Flags.none : Flags := {}

/-- The `result` part of a response (rule R12): the value after the arrow in the operation's rule.

Where a control word is decoded the result carries `rsv`, the word's reserved bits, beside the seven `Fields`: item U1
(rules R61, R62), the table's result column and the vectors V7 to V15, V100 to V115 return them.  DEDUCED, assumption log
entry 10. -/
inductive Result where
  /-- `CTL.ENC`, `PTR.PACK`, `STAT.ENC`. -/
  | word       (w : Word)
  /-- `CTL.DEC`. -/
  | fields     (f : Fields) (rsv : BitVec 2)
  /-- `PTR.UNPACK`, `PTR.CHECK`. -/
  | pointer    (addr : Word) (z : BitVec 4)
  /-- `PTR.CLASS`. -/
  | ptrClass   (c : PtrClass)
  /-- `ZVAL`. -/
  | zValue     (n : Word)
  /-- `IDX.RESOLVE`. -/
  | index      (ix : Option Word)
  /-- `ENC.SV`, `ENC.OM`, `ENC.OL`, `ENC.OLS`. -/
  | bytes16    (d : Bytes16)
  /-- `ENC.OMI`, `ENC.OLI`. -/
  | bytes32    (d : Bytes32)
  /-- `DESC.DEC`; `size` is in bytes. -/
  | descriptor (kind : Kind) (f : Fields) (rsv : BitVec 2) (size : Nat) (w1 w2 w3 : Word)
  /-- `STAT.DEC`. -/
  | status     (xferStatus timeStamp : BitVec 16) (eventCode : Byte)
  /-- `EVT.BENIGN`. -/
  | benign     (yes : Bool)
deriving DecidableEq, Repr

/-- A response (rule R12): an error, which carries no flag and no result, or the flags and the result. -/
inductive Response where
  | error (e : Err)
  | ok    (flags : Flags) (result : Result)
deriving DecidableEq, Repr

/-- The operand ports of rule R11, each of the width the rule gives. -/
structure Ports where
  cmd         : BitVec 4  := 0
  s           : BitVec 1  := 0
  key         : BitVec 3  := 0
  i           : BitVec 2  := 0
  b           : BitVec 2  := 0
  w           : BitVec 2  := 0
  reqCount    : Word      := 0
  word        : Word      := 0
  addr        : Word      := 0
  z           : Word      := 0
  trueZ       : Word      := 0
  totalBytes  : Word      := 0
  commandPtr  : Word      := 0
  baseAddress : Word      := 0
  dataAddress : Word      := 0
  ptrAddr     : Word      := 0
  ptrZ        : Word      := 0
  q0          : Word      := 0
  q1          : Word      := 0
  value       : BitVec 16 := 0
  slot        : Bytes16   := Bytes16.zeros
  prevValid   : BitVec 1  := 0
  prev        : Bytes16   := Bytes16.zeros
  xferStatus  : BitVec 16 := 0
  timeStamp   : BitVec 16 := 0
  eventCode   : Byte      := 0
deriving DecidableEq, Repr

/-- What the requester hands the codec in one transaction.

* `request`: the tuple `(op, operands)` of rule R11.
* `descriptor`: the bytes of a descriptor to be read (formats `STD16`, `STORE16`, `IMM32` of rule R40), as the
  slot its control word stands in and the slot after it, of which a 16-byte descriptor leaves the second
  unread.  DESIGN CHOICE, assumption log entries 6 and 7. -/
inductive Input where
  | request    (op : BitVec 5) (ports : Ports)
  | descriptor (slot next : Bytes16)
deriving DecidableEq, Repr

/-- The closed sum type of rule R41 in the form the source's `encode(descriptor)` takes it (rule R57): each
variant with the operands its encode operation lists, without `s`, `i`, `w`, which are common to all. -/
inductive Descriptor where
  | storeValue          (value : BitVec 16) (dataAddress skipAddr skipZ : Word)
  | outputMore          (reqCount dataAddress : Word)
  | outputMoreImmediate (q0 q1 skipAddr skipZ : Word)
  | outputLast          (reqCount dataAddress branchAddr branchZ : Word)
  | outputLastImmediate (q0 q1 branchAddr branchZ : Word)
  | outputLastSkip      (branchAddr branchZ : Word)
deriving DecidableEq, Repr

end Sys2Proof
end

