-- ==== Sys2Proof/Syntax.lean ====
section
/-! DEFINITION. The instructions: one constructor per row of `spec/opcode_table.json`.

The first eighteen are the operations of rule R52 with the operands of rule R11.  The last six are the
descriptor variants of rule R41 as they are read from bytes by the selection of rule R55: the control bits that
take no part in the selection, the low 16 bits of `W0`, the header words `W1 .. W3` and, for a 32-byte variant,
the two inline quadlets and the two pad words. -/

namespace Sys2Proof

inductive Instr where
  | ctlEnc (cmd : BitVec 4) (s : BitVec 1) (key : BitVec 3) (i b w : BitVec 2) (reqCount : Word)
  | ctlDec (word : Word)
  | ptrPack (addr z : Word)
  | ptrUnpack (word : Word)
  | ptrCheck (word trueZ : Word)
  | ptrClass (word : Word)
  | zval (totalBytes : Word)
  | idxResolve (commandPtr baseAddress : Word)
  | encSv (value : BitVec 16) (dataAddress ptrAddr ptrZ : Word) (s : BitVec 1) (i w : BitVec 2)
  | encOm (reqCount dataAddress : Word) (s : BitVec 1) (i w : BitVec 2)
  | encOmi (q0 q1 ptrAddr ptrZ : Word) (s : BitVec 1) (i w : BitVec 2)
  | encOl (reqCount dataAddress ptrAddr ptrZ : Word) (s : BitVec 1) (i w : BitVec 2)
  | encOli (q0 q1 ptrAddr ptrZ : Word) (s : BitVec 1) (i w : BitVec 2)
  | encOls (ptrAddr ptrZ : Word) (s : BitVec 1) (i w : BitVec 2)
  | descDec (slot : Bytes16) (prevValid : BitVec 1) (prev : Bytes16)
  | statDec (word : Word)
  | statEnc (xferStatus timeStamp : BitVec 16)
  | evtBenign (eventCode : Byte)
  | storeValue (c : Controls) (value : BitVec 16) (w1 w2 w3 : Word)
  | outputMore (c : Controls) (reqCount : BitVec 16) (w1 w2 w3 : Word)
  | outputMoreImmediate (c : Controls) (reqCount : BitVec 16) (w1 w2 w3 q0 q1 : Word) (pad0 pad1 : Quad)
  | outputLast (c : Controls) (reqCount : BitVec 16) (w1 w2 w3 : Word)
  | outputLastImmediate (c : Controls) (reqCount : BitVec 16) (w1 w2 w3 q0 q1 : Word) (pad0 pad1 : Quad)
  | outputLastSkip (c : Controls) (w1 w2 w3 : Word)
deriving DecidableEq, Repr

end Sys2Proof
end

