-- ==== Sys2Proof/WellFormed.lean ====
section
/-! DEFINITION. Well-formed instructions and well-formed configurations. -/

namespace Sys2Proof

/-- The one check on an instruction: an `OutputLast` has a non-zero count, for with count 0 the same word is an
`OutputLastSkip` (rules R55, R102).  Every other field is a port or a bit field of exactly its width (rule R11). -/
def Instr.wellFormed : Instr → Bool
  | .outputLast _ reqCount _ _ _ => reqCount != 0
  | _ => true

namespace Config

/-- The `(cmd, key)` pairs of rule R41, in the order of the table of rule R102. -/
def variantPairs (cfg : Config) : List (BitVec 4 × BitVec 3) :=
  [(cfg.cmdStoreValue, cfg.keyStore),
   (cfg.cmdOutputMore, cfg.keyStandard),
   (cfg.cmdOutputMore, keyImmediate),
   (cmdOutputLast, cfg.keyStandard),
   (cmdOutputLast, keyImmediate)]

/-- No two variants share a `(cmd, key)` pair, but for `OutputLast` and `OutputLastSkip` (rule R51).  What
`Machine.selectKind` does where they do is assumption log entry 23. -/
def pairsDistinct (cfg : Config) : Bool :=
  decide cfg.variantPairs.Nodup

/-- The store key is not the immediate key: a store descriptor is 16 bytes (rules R40, R45, R46).
Assumption log entry 24. -/
def storeKeyNotImmediate (cfg : Config) : Bool :=
  cfg.keyStore != keyImmediate

/-- The control word of the fill pattern, `(cmd, key) = (13, 6)`, spells no variant (rule R93 item 4: "not
reachable by any encoder under the default code points, since that needs `cmd = 13`"). -/
def fillSpellsNothing (cfg : Config) : Bool :=
  !cfg.variantPairs.contains (13, 6)

/-- Data address, pointer and status word stand in three different words (rule R44). -/
def placesDistinct (cfg : Config) : Bool :=
  cfg.wData != cfg.wBranch && cfg.wData != cfg.wStatus && cfg.wBranch != cfg.wStatus

/-- A configuration under which the layouts of rules R41 to R47 can be told apart.  The default is one. -/
def wellFormed (cfg : Config) : Bool :=
  cfg.pairsDistinct && cfg.storeKeyNotImmediate && cfg.fillSpellsNothing && cfg.placesDistinct

end Config

end Sys2Proof
end

