-- ==== Sys2Proof/Machine/Operands.lean ====
section
/-! DEFINITION. Operand assembly and field extraction: byte order (rule R25), the control word (rule R42), the
pointer word (rule R43), the status word (rule R115), the header words (rules R44, R45, R47) and the checks on
operands (rules R49, R85). -/

namespace Sys2Proof.Machine

/-! ## Byte order (rules R7, R25) -/

/-- `le32` of rule R7: least significant byte first. -/
def le32 (v : Word) : Quad :=
  ⟨v.extractLsb' 0 8, v.extractLsb' 8 8, v.extractLsb' 16 8, v.extractLsb' 24 8⟩

/-- `be32` of rule R7: most significant byte first. -/
def be32 (v : Word) : Quad :=
  ⟨v.extractLsb' 24 8, v.extractLsb' 16 8, v.extractLsb' 8 8, v.extractLsb' 0 8⟩

/-- The inverse of `le32`. -/
def unle32 (q : Quad) : Word :=
  (q.b3.setWidth 32 <<< 24) ||| (q.b2.setWidth 32 <<< 16) ||| (q.b1.setWidth 32 <<< 8) ||| q.b0.setWidth 32

/-- The inverse of `be32`. -/
def unbe32 (q : Quad) : Word :=
  (q.b0.setWidth 32 <<< 24) ||| (q.b1.setWidth 32 <<< 16) ||| (q.b2.setWidth 32 <<< 8) ||| q.b3.setWidth 32

/-- A word as bytes in a given order. -/
def storeWord (o : ByteOrder) (v : Word) : Quad :=
  match o with
  | .littleEndian => le32 v
  | .bigEndian => be32 v

/-- A word from bytes in a given order. -/
def loadWord (o : ByteOrder) (q : Quad) : Word :=
  match o with
  | .littleEndian => unle32 q
  | .bigEndian => unbe32 q

/-- `hdr32` of rule R7, for the header words `W0 .. W3`. -/
def hdr32 (cfg : Config) (v : Word) : Quad := storeWord cfg.hdrOrder v

/-- `unhdr32` of rule R7. -/
def unhdr32 (cfg : Config) (q : Quad) : Word := loadWord cfg.hdrOrder q

/-- `imm32` of rule R7, for the inline quadlets `W4`, `W5`. -/
def imm32 (cfg : Config) (v : Word) : Quad := storeWord cfg.immOrder v

/-- `unimm32` of rule R7. -/
def unimm32 (cfg : Config) (q : Quad) : Word := loadWord cfg.immOrder q

/-- The bytes of a word's four bytes, lowest address first. -/
def quadBytes (q : Quad) : List Byte := [q.b0, q.b1, q.b2, q.b3]

/-- The byte string of 16 bytes, lowest address first (rule R25). -/
def bytes16List (d : Bytes16) : List Byte :=
  quadBytes d.w0 ++ quadBytes d.w1 ++ quadBytes d.w2 ++ quadBytes d.w3

/-- The byte string of 32 bytes, lowest address first (rule R25). -/
def bytes32List (d : Bytes32) : List Byte := bytes16List d.first ++ bytes16List d.second

/-! ## The control word (rules R42, R60, R61) -/

/-- The word formed in rule R60, whose count is already 16 bits; bits 23:22 are 0. -/
def controlWord (cmd : BitVec 4) (s : BitVec 1) (key : BitVec 3) (i b w : BitVec 2) (reqCount : BitVec 16) : Word :=
  (cmd.setWidth 32 <<< 28) ||| (s.setWidth 32 <<< 27) ||| (key.setWidth 32 <<< 24)
    ||| (i.setWidth 32 <<< 20) ||| (b.setWidth 32 <<< 18) ||| (w.setWidth 32 <<< 16)
    ||| reqCount.setWidth 32

/-- `rsv`, the reserved bits 23:22 of a control word (rule R42, item U1). -/
def reservedBits (word : Word) : BitVec 2 := word.extractLsb' 22 2

/-- The seven fields of a control word (rule R61). -/
def controlFields (word : Word) : Fields where
  cmd      := word.extractLsb' 28 4
  s        := word.extractLsb' 27 1
  key      := word.extractLsb' 24 3
  i        := word.extractLsb' 20 2
  b        := word.extractLsb' 18 2
  w        := word.extractLsb' 16 2
  reqCount := word.extractLsb' 0 16

/-- The control bits of a control word that take no part in the selection (rule R102). -/
def controlBits (word : Word) : Controls where
  s   := word.extractLsb' 27 1
  rsv := reservedBits word
  i   := word.extractLsb' 20 2
  b   := word.extractLsb' 18 2
  w   := word.extractLsb' 16 2

/-- A control word from its selecting fields and its other control bits, the reserved ones among them, each at
the place rule R42 gives it. -/
def placedControlWord (cmd : BitVec 4) (key : BitVec 3) (c : Controls) (reqCount : BitVec 16) : Word :=
  (cmd.setWidth 32 <<< 28) ||| (c.s.setWidth 32 <<< 27) ||| (key.setWidth 32 <<< 24)
    ||| (c.rsv.setWidth 32 <<< 22) ||| (c.i.setWidth 32 <<< 20) ||| (c.b.setWidth 32 <<< 18)
    ||| (c.w.setWidth 32 <<< 16) ||| reqCount.setWidth 32

/-- The fields of a descriptor whose variant fixes `cmd` and `key`. -/
def variantFields (cmd : BitVec 4) (key : BitVec 3) (c : Controls) (reqCount : BitVec 16) : Fields :=
  ⟨cmd, c.s, key, c.i, c.b, c.w, reqCount⟩

/-! ## The pointer word (rules R43, R70, R72) -/

/-- `PTR.PACK`, the formula of rule R70. -/
def pack (addr z : Word) : Word := (addr &&& 0xFFFFFFF0) ||| (z &&& 0x0000000F)

/-- The address half of `PTR.UNPACK` (rule R72). -/
def unpackAddr (word : Word) : Word := word &&& 0xFFFFFFF0

/-- The Z half of `PTR.UNPACK` (rule R72). -/
def unpackZ (word : Word) : BitVec 4 := word.extractLsb' 0 4

/-- `PTR.CLASS` (rule R75). -/
def classify (word : Word) : PtrClass :=
  if unpackZ word = 0 then .stop
  else if unpackAddr word = 0 then .nullNonzeroZ
  else .valid

/-! ## The status word (rules R115 to R117) -/

/-- The transfer-status half of a status word. -/
def xferStatusOf (cfg : Config) (word : Word) : BitVec 16 :=
  if cfg.stXferHi then word.extractLsb' 16 16 else word.extractLsb' 0 16

/-- The time-stamp half of a status word. -/
def timeStampOf (cfg : Config) (word : Word) : BitVec 16 :=
  if cfg.stXferHi then word.extractLsb' 0 16 else word.extractLsb' 16 16

/-- The event code: the low 8 bits of the transfer status (rule R115). -/
def eventCodeOf (xferStatus : BitVec 16) : Byte := xferStatus.extractLsb' 0 8

/-- A status word from its halves (rule R117). -/
def statusWord (cfg : Config) (xferStatus timeStamp : BitVec 16) : Word :=
  if cfg.stXferHi then (xferStatus.setWidth 32 <<< 16) ||| timeStamp.setWidth 32
  else (timeStamp.setWidth 32 <<< 16) ||| xferStatus.setWidth 32

/-! ## Sizes and slots (rules R30, R46, R76) -/

/-- The size in bytes that a key gives its descriptor (rules R46, R54), whatever its kind (rule R105).  DEDUCED,
assumption log entries 11 and 24. -/
def sizeOfKey (key : BitVec 3) : Nat := if key = Config.keyImmediate then 32 else 16

/-- `ceil(totalBytes / 16)` on naturals (rule R76). -/
def slotsFor (totalBytes : Nat) : Nat := (totalBytes + 15) / Config.slotBytes

/-- Where slot `n` stands (rule R30), as a natural: the spec lets no address wrap. -/
def slotAddress (baseAddress : Word) (n : Nat) : Nat := baseAddress.toNat + Config.slotBytes * n

/-! ## Header words (rules R44, R45, R47, R103) -/

/-- Which of a slot's three words stands at a place. -/
def wordAt (p : WordPlace) (w1 w2 w3 : Word) : Word :=
  match p with
  | .w1 => w1
  | .w2 => w2
  | .w3 => w3

/-- The word at place `p` of a 16-byte descriptor with a data address, a pointer and a status word, each 0 where
the variant has none (rules R44, R45); a word with no stated content is 0 (rule R85 item 3).
The order for coinciding places is a DESIGN CHOICE, assumption log entry 13. -/
def standardWord (cfg : Config) (dataAddress pointer status : Word) (p : WordPlace) : Word :=
  if p = cfg.wBranch then pointer
  else if p = cfg.wData then dataAddress
  else if p = cfg.wStatus then status
  else 0

/-- The word at place `p` of an immediate header (rule R47). -/
def immediateWord (cfg : Config) (pointer : Word) (p : WordPlace) : Word :=
  if p = cfg.wImmPtr then pointer else 0

/-- A header: control word and three words, serialised with `hdr32` (rule R85 item 4). -/
def header (cfg : Config) (w0 : Word) (word : WordPlace → Word) : Bytes16 :=
  ⟨hdr32 cfg w0, hdr32 cfg (word .w1), hdr32 cfg (word .w2), hdr32 cfg (word .w3)⟩

/-- A 16-byte descriptor (rules R44, R45, R85). -/
def standardDescriptor (cfg : Config) (w0 dataAddress pointer : Word) : Bytes16 :=
  header cfg w0 (standardWord cfg dataAddress pointer 0)

/-- A 32-byte descriptor: header, two quadlets, eight bytes of zero (rules R47, R85). -/
def immediateDescriptor (cfg : Config) (w0 pointer q0 q1 : Word) : Bytes32 :=
  ⟨header cfg w0 (immediateWord cfg pointer), ⟨imm32 cfg q0, imm32 cfg q1, .zeros, .zeros⟩⟩

/-- The reading of the word at place `p`, by kind: the table of rule R103. -/
def wordRole (cfg : Config) (kind : Kind) (p : WordPlace) : WordRole :=
  match kind with
  | .storeValue =>
    if p = cfg.wBranch then .skipPointer else if p = cfg.wData then .dataAddress else .reserved
  | .outputMore =>
    if p = cfg.wBranch then .notInterpreted else if p = cfg.wData then .dataAddress else .reserved
  | .outputMoreImmediate => if p = cfg.wImmPtr then .skipPointer else .reserved
  | .outputLast =>
    if p = cfg.wBranch then .branchPointer else if p = cfg.wData then .dataAddress
    else if p = cfg.wStatus then .statusWord else .reserved
  | .outputLastImmediate => if p = cfg.wImmPtr then .branchPointer else .reserved
  | .outputLastSkip =>
    if p = cfg.wBranch then .branchPointer else if p = cfg.wData then .reserved
    else if p = cfg.wStatus then .statusWord else .reserved
  | .unknown => .noReading

/-- Whether a role is that of a pointer word. -/
def isPointerRole (r : WordRole) : Bool :=
  match r with
  | .skipPointer | .branchPointer => true
  | .dataAddress | .statusWord | .reserved | .notInterpreted | .noReading => false

/-- Where a kind holds its pointer word, if it has one: the last column of the table of rule R103. -/
def pointerPlace (cfg : Config) (kind : Kind) : Option WordPlace :=
  if isPointerRole (wordRole cfg kind .w1) then some .w1
  else if isPointerRole (wordRole cfg kind .w2) then some .w2
  else if isPointerRole (wordRole cfg kind .w3) then some .w3
  else none

/-- `select(fields)` of rule R102, row by row.  Where a configuration gives two variants one `(cmd, key)` pair, the
spec's tables (rules R55, R102) give no order between their rows, and the earlier row of rule R102 wins: DESIGN CHOICE,
assumption log entry 23. -/
def selectKind (cfg : Config) (f : Fields) : Kind :=
  if f.cmd = cfg.cmdStoreValue ∧ f.key = cfg.keyStore then .storeValue
  else if f.cmd = cfg.cmdOutputMore ∧ f.key = cfg.keyStandard then .outputMore
  else if f.cmd = cfg.cmdOutputMore ∧ f.key = Config.keyImmediate then .outputMoreImmediate
  else if f.cmd = Config.cmdOutputLast ∧ f.key = cfg.keyStandard then
    if f.reqCount = 0 then .outputLastSkip else .outputLast
  else if f.cmd = Config.cmdOutputLast ∧ f.key = Config.keyImmediate then .outputLastImmediate
  else .unknown

/-! ## Checks on operands (rules R49, R85, R129) -/

/-- The low four bits of an address are 0 (rule R26). -/
def aligned16 (addr : Word) : Bool := addr &&& 0xF == 0

/-- The range check of rule R85. -/
def rangeError (reqCount : Word) : Option Err :=
  if reqCount.toNat > 0xFFFF then some (.fieldOverflow reqCount) else none

/-- The alignment check of rule R85 on a pointer target. -/
def targetError (ptrAddr : Word) : Option Err :=
  if aligned16 ptrAddr then none else some (.misalignedAddress ptrAddr)

/-- The alignment check of rule R85 on a data address, made only with `CHECK_DATA_ALIGN` (rule R26). -/
def dataError (cfg : Config) (dataAddress : Word) : Option Err :=
  if cfg.checkDataAlign && !aligned16 dataAddress then some (.misalignedAddress dataAddress) else none

end Sys2Proof.Machine
end

