-- ==== Sys2Proof/Machine/Flags.lean ====
section
/-! DEFINITION. Every flag computation (rule R16), and the response port's numbers (rules R12, R16, R125). -/

namespace Sys2Proof.Machine

/-- `Z_MISMATCH` (rule R74): the comparison is on 32 bits and `trueZ` is not masked. -/
def zMismatchFlag (word trueZ : Word) : Bool := (unpackZ word).setWidth 32 != trueZ

/-- `RSVD_NONZERO` (rule R62), of the reserved bits of a control word. -/
def rsvdFlag (rsv : BitVec 2) : Bool := rsv != 0

/-- `STOP` (rule R75). -/
def stopFlag (word : Word) : Bool := classify word == .stop

/-- `NULL_NONZERO_Z` (rule R75). -/
def nullFlag (word : Word) : Bool := classify word == .nullNonzeroZ

/-- A word of four fill bytes. -/
def uninitQuad : Quad := ⟨Config.uninitByte, Config.uninitByte, Config.uninitByte, Config.uninitByte⟩

/-- `UNINIT` (rule R101): all 16 bytes are the fill byte. -/
def uninitFlag (slot : Bytes16) : Bool := slot == ⟨uninitQuad, uninitQuad, uninitQuad, uninitQuad⟩

/-- `SECOND_HALF` (rule R104): it reads only the key of the preceding slot's first word. -/
def secondHalfFlag (cfg : Config) (prevValid : BitVec 1) (prev : Bytes16) : Bool :=
  prevValid == 1 && (controlFields (unhdr32 cfg prev.w0)).key == Config.keyImmediate

/-- `OUT_OF_RANGE` (rule R77). -/
def outOfRangeFlag (commandPtr baseAddress : Word) : Bool :=
  decide ((unpackAddr commandPtr).toNat < baseAddress.toNat)

/-- `BASE_MISALIGNED` (rule R77): tested only where the pointer is not below the base. -/
def baseMisalignedFlag (commandPtr baseAddress : Word) : Bool :=
  !outOfRangeFlag commandPtr baseAddress
    && ((unpackAddr commandPtr).toNat - baseAddress.toNat) % Config.slotBytes != 0

/-- The flags `PTR.CLASS` sets on a pointer word (rule R75). -/
def pointerFlags (word : Word) : Flags := { stop := stopFlag word, nullNonzeroZ := nullFlag word }

/-- The flags of rule R100 for a slot of a given kind whose three header words are given; the pointer word's
two are set only for a kind that has one (rule R103). -/
def slotFlags (cfg : Config) (kind : Kind) (rsvd uninit secondHalf : Bool) (w1 w2 w3 : Word) : Flags :=
  match pointerPlace cfg kind with
  | some p =>
    { rsvdNonzero := rsvd, uninit := uninit, secondHalf := secondHalf,
      stop := stopFlag (wordAt p w1 w2 w3), nullNonzeroZ := nullFlag (wordAt p w1 w2 w3) }
  | none => { rsvdNonzero := rsvd, uninit := uninit, secondHalf := secondHalf }

/-! ## The response port as numbers (the spec's decision D3: DESIGN CHOICE, assumption log entry 15) -/

/-- The `flags` part of a response as 8 bits, numbered as rule R16 numbers them. -/
def flagBits (f : Flags) : Byte :=
  (if f.zMismatch then 0x01 else 0) ||| (if f.rsvdNonzero then 0x02 else 0)
    ||| (if f.nullNonzeroZ then 0x04 else 0) ||| (if f.stop then 0x08 else 0)
    ||| (if f.uninit then 0x10 else 0) ||| (if f.secondHalf then 0x20 else 0)
    ||| (if f.outOfRange then 0x40 else 0) ||| (if f.baseMisaligned then 0x80 else 0)

/-- The `err` code of an error (rule R125). -/
def errCode (e : Err) : BitVec 3 :=
  match e with
  | .fieldOverflow _ => 1
  | .misalignedAddress _ => 2
  | .illegalOp _ => 3

/-- The `info` value of an error (rule R125). -/
def errInfo (e : Err) : Word :=
  match e with
  | .fieldOverflow reqCount => reqCount
  | .misalignedAddress addr => addr
  | .illegalOp op => op.setWidth 32

/-- The `status` part of a response: `OK` is 0, `ERR` is 1 (rule R12). -/
def responseStatus (r : Response) : BitVec 1 :=
  match r with
  | .ok _ _ => 0
  | .error _ => 1

/-- The `err` part of a response, absent when the status is `OK` (rule R12). -/
def responseErr (r : Response) : Option (BitVec 3) :=
  match r with
  | .ok _ _ => none
  | .error e => some (errCode e)

/-- The `flags` part of a response, 0 when the status is `ERR` (rule R12). -/
def responseFlags (r : Response) : Byte :=
  match r with
  | .ok f _ => flagBits f
  | .error _ => 0

/-- The `result` part of a response, absent when the status is `ERR` (rule R12). -/
def responseResult (r : Response) : Option Result :=
  match r with
  | .ok _ result => some result
  | .error _ => none

end Sys2Proof.Machine
end

