-- ==== Sys2Proof/Decode.lean ====
section
/-! DEFINITION. The decoder and the encoder of instructions.

Two encodings meet here (rule R40): a request's 5-bit selector with its operand ports (rules R11, R52, R53), and
the bytes of a descriptor, whose variant the control word selects (rules R54, R55, R101, R102).  Every input
decodes to an instruction or is rejected by name. -/

namespace Sys2Proof

open Machine

/-- Why an input is no instruction of the table.  Neither stops the machine: the codec answers both
(`Machine.undecodedResponse`).  DEDUCED, assumption log entries 8 and 9. -/
inductive DecodeError where
  /-- Selectors `0x12 .. 0x1F` (rule R53). -/
  | reservedSelector (op : BitVec 5)
  /-- A slot that is the fill pattern or whose `(cmd, key)` pair names no variant (rules R51, R101). -/
  | noVariant (slot : Bytes16)
deriving DecidableEq, Repr

/-- The operation map of rule R52, with the operands rule R11 says each operation reads. -/
def decodeRequest (op : BitVec 5) (p : Ports) : Except DecodeError Instr :=
  match op.toNat with
  | 0x00 => .ok (.ctlEnc p.cmd p.s p.key p.i p.b p.w p.reqCount)
  | 0x01 => .ok (.ctlDec p.word)
  | 0x02 => .ok (.ptrPack p.addr p.z)
  | 0x03 => .ok (.ptrUnpack p.word)
  | 0x04 => .ok (.ptrCheck p.word p.trueZ)
  | 0x05 => .ok (.ptrClass p.word)
  | 0x06 => .ok (.zval p.totalBytes)
  | 0x07 => .ok (.idxResolve p.commandPtr p.baseAddress)
  | 0x08 => .ok (.encSv p.value p.dataAddress p.ptrAddr p.ptrZ p.s p.i p.w)
  | 0x09 => .ok (.encOm p.reqCount p.dataAddress p.s p.i p.w)
  | 0x0A => .ok (.encOmi p.q0 p.q1 p.ptrAddr p.ptrZ p.s p.i p.w)
  | 0x0B => .ok (.encOl p.reqCount p.dataAddress p.ptrAddr p.ptrZ p.s p.i p.w)
  | 0x0C => .ok (.encOli p.q0 p.q1 p.ptrAddr p.ptrZ p.s p.i p.w)
  | 0x0D => .ok (.encOls p.ptrAddr p.ptrZ p.s p.i p.w)
  | 0x0E => .ok (.descDec p.slot p.prevValid p.prev)
  | 0x0F => .ok (.statDec p.word)
  | 0x10 => .ok (.statEnc p.xferStatus p.timeStamp)
  | 0x11 => .ok (.evtBenign p.eventCode)
  | _ => .error (.reservedSelector op)

/-- The descriptor that stands in `slot`, whose second half, for a 32-byte variant, is `next` (rules R54, R55,
R101, R102, R103). -/
def decodeDescriptor (cfg : Config) (slot next : Bytes16) : Except DecodeError Instr :=
  let w0 := unhdr32 cfg slot.w0
  let w1 := unhdr32 cfg slot.w1
  let w2 := unhdr32 cfg slot.w2
  let w3 := unhdr32 cfg slot.w3
  let f := controlFields w0
  let c := controlBits w0
  if uninitFlag slot then .error (.noVariant slot)
  else
    match selectKind cfg f with
    | .storeValue => .ok (.storeValue c f.reqCount w1 w2 w3)
    | .outputMore => .ok (.outputMore c f.reqCount w1 w2 w3)
    | .outputMoreImmediate =>
      .ok (.outputMoreImmediate c f.reqCount w1 w2 w3 (unimm32 cfg next.w0) (unimm32 cfg next.w1) next.w2 next.w3)
    | .outputLast => .ok (.outputLast c f.reqCount w1 w2 w3)
    | .outputLastImmediate =>
      .ok (.outputLastImmediate c f.reqCount w1 w2 w3 (unimm32 cfg next.w0) (unimm32 cfg next.w1) next.w2 next.w3)
    | .outputLastSkip => .ok (.outputLastSkip c w1 w2 w3)
    | .unknown => .error (.noVariant slot)

/-- The decoder. -/
def decode (cfg : Config) (inp : Input) : Except DecodeError Instr :=
  match inp with
  | .request op ports => decodeRequest op ports
  | .descriptor slot next => decodeDescriptor cfg slot next

/-! ## The encoder -/

/-- A descriptor's first slot from its control word and its other header words. -/
def encodeSlot (cfg : Config) (w0 w1 w2 w3 : Word) : Bytes16 :=
  ⟨hdr32 cfg w0, hdr32 cfg w1, hdr32 cfg w2, hdr32 cfg w3⟩

/-- The input that spells an instruction: a selector and its ports (an operand the operation does not list is
left 0), or a descriptor's bytes. -/
def encode (cfg : Config) (i : Instr) : Input :=
  match i with
  | .ctlEnc cmd s key i b w reqCount =>
    .request 0x00 { cmd := cmd, s := s, key := key, i := i, b := b, w := w, reqCount := reqCount }
  | .ctlDec word => .request 0x01 { word := word }
  | .ptrPack addr z => .request 0x02 { addr := addr, z := z }
  | .ptrUnpack word => .request 0x03 { word := word }
  | .ptrCheck word trueZ => .request 0x04 { word := word, trueZ := trueZ }
  | .ptrClass word => .request 0x05 { word := word }
  | .zval totalBytes => .request 0x06 { totalBytes := totalBytes }
  | .idxResolve commandPtr baseAddress => .request 0x07 { commandPtr := commandPtr, baseAddress := baseAddress }
  | .encSv value dataAddress ptrAddr ptrZ s i w =>
    .request 0x08 { value := value, dataAddress := dataAddress, ptrAddr := ptrAddr, ptrZ := ptrZ, s := s, i := i, w := w }
  | .encOm reqCount dataAddress s i w =>
    .request 0x09 { reqCount := reqCount, dataAddress := dataAddress, s := s, i := i, w := w }
  | .encOmi q0 q1 ptrAddr ptrZ s i w =>
    .request 0x0A { q0 := q0, q1 := q1, ptrAddr := ptrAddr, ptrZ := ptrZ, s := s, i := i, w := w }
  | .encOl reqCount dataAddress ptrAddr ptrZ s i w =>
    .request 0x0B
      { reqCount := reqCount, dataAddress := dataAddress, ptrAddr := ptrAddr, ptrZ := ptrZ, s := s, i := i, w := w }
  | .encOli q0 q1 ptrAddr ptrZ s i w =>
    .request 0x0C { q0 := q0, q1 := q1, ptrAddr := ptrAddr, ptrZ := ptrZ, s := s, i := i, w := w }
  | .encOls ptrAddr ptrZ s i w => .request 0x0D { ptrAddr := ptrAddr, ptrZ := ptrZ, s := s, i := i, w := w }
  | .descDec slot prevValid prev => .request 0x0E { slot := slot, prevValid := prevValid, prev := prev }
  | .statDec word => .request 0x0F { word := word }
  | .statEnc xferStatus timeStamp => .request 0x10 { xferStatus := xferStatus, timeStamp := timeStamp }
  | .evtBenign eventCode => .request 0x11 { eventCode := eventCode }
  | .storeValue c value w1 w2 w3 =>
    .descriptor (encodeSlot cfg (placedControlWord cfg.cmdStoreValue cfg.keyStore c value) w1 w2 w3) .zeros
  | .outputMore c reqCount w1 w2 w3 =>
    .descriptor (encodeSlot cfg (placedControlWord cfg.cmdOutputMore cfg.keyStandard c reqCount) w1 w2 w3) .zeros
  | .outputMoreImmediate c reqCount w1 w2 w3 q0 q1 pad0 pad1 =>
    .descriptor (encodeSlot cfg (placedControlWord cfg.cmdOutputMore Config.keyImmediate c reqCount) w1 w2 w3)
      ⟨imm32 cfg q0, imm32 cfg q1, pad0, pad1⟩
  | .outputLast c reqCount w1 w2 w3 =>
    .descriptor (encodeSlot cfg (placedControlWord Config.cmdOutputLast cfg.keyStandard c reqCount) w1 w2 w3) .zeros
  | .outputLastImmediate c reqCount w1 w2 w3 q0 q1 pad0 pad1 =>
    .descriptor (encodeSlot cfg (placedControlWord Config.cmdOutputLast Config.keyImmediate c reqCount) w1 w2 w3)
      ⟨imm32 cfg q0, imm32 cfg q1, pad0, pad1⟩
  | .outputLastSkip c w1 w2 w3 =>
    .descriptor (encodeSlot cfg (placedControlWord Config.cmdOutputLast cfg.keyStandard c 0) w1 w2 w3) .zeros

/-! ## Words of the opcode table -/

/-- The input whose bits are `w` as `spec/opcode_table.json` numbers them.  A row of fewer than 32 bits is a
request, whose selector is bits 4:0; its operand ports are not bits of the word (the table's note) and are 0.  A
row of 32 bits is a descriptor whose control word is bits 31:0; the bits above are its further words.  DESIGN CHOICE,
assumption log entry 5. -/
def tableInput (cfg : Config) (nbits w : Nat) : Input :=
  if nbits < 32 then .request (BitVec.ofNat 5 w) {}
  else
    .descriptor
      (encodeSlot cfg (BitVec.ofNat 32 w) (BitVec.ofNat 32 (w >>> 32)) (BitVec.ofNat 32 (w >>> 64))
        (BitVec.ofNat 32 (w >>> 96)))
      .zeros

/-- What the decoder reads from a word of the opcode table, under the default configuration. -/
def decodeTableWord (nbits w : Nat) : Option Instr :=
  match decode Config.default (tableInput Config.default nbits w) with
  | .ok i => some i
  | .error _ => none

end Sys2Proof
end

