-- ==== Sys2Proof/Machine/State.lean ====
section
/-! DEFINITION. The state, its value after reset, and the reasons a step can stop.

The codec holds no register, no program counter, no memory, no control register and no stored flag (rules R14 to
R19): what stands here is its two ports and its configuration. -/

namespace Sys2Proof.Machine

/-- What a transaction needs and leaves.

* `cfg`: the configuration of rule R6.  It is constant for the life of the block (rule R18); it stands here so that
  a claim over all states is a claim over all configurations.  No step writes it.  DESIGN CHOICE, entry 1.
* `requests`: the requester's side of the request port: what it has still to send, the next first (rule R157).
  The codec has one request in progress at a time (rule R24).  DESIGN CHOICE, entry 3.
* `response`: the response port: the response to the last request, or none before the first (rule R21).
  DESIGN CHOICE, entry 22. -/
structure State where
  cfg      : Config
  requests : List Input
  response : Option Response
deriving DecidableEq, Repr

/-- The machine right after reset (rules R21, R145): no response, nothing sent yet, the parameters at the values
they are configured to, here the defaults of rule R6.  DESIGN CHOICE, assumption log entries 2 and 3. -/
def State.reset : State where
  cfg      := Config.default
  requests := []
  response := none

/-- Why a step has no next state. -/
inductive Fault where
  /-- Raised by `step` alone, when the requester has sent nothing: the codec takes no step that the requester does
  not ask for (rule R10).  A stuck state and the end of a run (rule R157).  Safe: nothing is claimed of it.  DESIGN CHOICE,
  entry 4. -/
  | noRequest
deriving DecidableEq, Repr

/-- Why an instruction has no meaning. -/
inductive Refusal where
  /-- Raised by `exec` for an instruction that is not modelled yet: no instruction of this model.  Safe. -/
  | notModelled (mnemonic : String)
deriving DecidableEq, Repr

/-- The outcome of a step. -/
abbrev StepOutcome := Host.Outcome State Fault Refusal

end Sys2Proof.Machine
end

