-- ==== Sys2Proof/Machine/Ops.lean ====
section
/-! DEFINITION. The operations shared by the meanings: answering a request, raising an error, the encoders' checks,
the report on a slot, and what the host can do from outside. -/

namespace Sys2Proof.Machine

/-- The one thing an operation does to the state: its response is put on the response port (rule R12). -/
def reply (r : Response) (s : State) : StepOutcome := .next { s with response := some r }

/-- `return v` of rule R7, with the flags set on the way. -/
def succeed (flags : Flags) (result : Result) (s : State) : StepOutcome := reply (.ok flags result) s

/-- `raise e` of rule R7, error entry (rule R130): the response is the error, with no flag and no result, and nothing
else happens.  There is no return from an error (rule R131). -/
def raise (e : Err) (s : State) : StepOutcome := reply (.error e) s

/-- The first error of a list of checks in the order of rule R129, or the result. -/
def checked (checks : List (Option Err)) (result : Result) (s : State) : StepOutcome :=
  match checks.findSome? id with
  | some e => raise e s
  | none => succeed .none result s

/-- The response of `DESC.DEC` on a slot of a given kind (rules R100, R103, R105), with the reserved bits of its control word
as `rsv` (item U1; assumption log entry 10). -/
def slotReport (cfg : Config) (kind : Kind) (f : Fields) (rsv : BitVec 2) (uninit secondHalf : Bool)
    (w1 w2 w3 : Word) : Response :=
  .ok (slotFlags cfg kind (rsvdFlag rsv) uninit secondHalf w1 w2 w3)
    (.descriptor kind f rsv (sizeOfKey f.key) w1 w2 w3)

/-- The response of `DESC.DEC` (rule R100). -/
def describeSlot (cfg : Config) (slot : Bytes16) (prevValid : BitVec 1) (prev : Bytes16) : Response :=
  let w0 := unhdr32 cfg slot.w0
  let f := controlFields w0
  let kind := if uninitFlag slot then .unknown else selectKind cfg f
  slotReport cfg kind f (reservedBits w0) (uninitFlag slot) (secondHalfFlag cfg prevValid prev)
    (unhdr32 cfg slot.w1) (unhdr32 cfg slot.w2) (unhdr32 cfg slot.w3)

/-- The answer to an input that is no instruction of the table: `IllegalOp` for a reserved selector (rule R53), the
report with kind `Unknown` for a slot that spells no variant (rules R51, R101).  DEDUCED, assumption log entries 8 and 9. -/
def undecodedResponse (cfg : Config) (e : DecodeError) : Response :=
  match e with
  | .reservedSelector op => .error (.illegalOp op)
  | .noVariant slot => describeSlot cfg slot 0 .zeros

/-- A reset between two requests (rule R145): the response port is emptied and the parameters are unaffected.  DEDUCED,
assumption log entry 14. -/
def hostReset (s : State) : State := { s with response := none }

/-- A reset during a request (rule R145): that request gets no response and is lost. -/
def hostResetDuringRequest (s : State) : State := { s with requests := s.requests.tail, response := none }

/-- The host sends one more request after those it is going to send (rule R157). -/
def hostSend (inp : Input) (s : State) : State := { s with requests := s.requests ++ [inp] }

/-! ## The requester's buffer (rules R37, R157, D30) -/

/-- The bytes a result carries, if it is an encoder's. -/
def encodedBytes (r : Response) : List Byte :=
  match r with
  | .ok _ (.bytes16 d) => bytes16List d
  | .ok _ (.bytes32 d) => bytes32List d
  | .ok _ _ => []
  | .error _ => []

/-- The buffer a requester assembles from responses in order: the encoders' bytes one after another (rule R37). -/
def assembled (rs : List Response) : List Byte := rs.flatMap encodedBytes

end Sys2Proof.Machine
end

