-- ==== Sys2Proof/Machine/ControlWord.lean ====
section
/-! DEFINITION. The control word operations (rules R60 to R62). -/

namespace Sys2Proof.Machine

/-- `CTL.ENC` (rule R60). -/
def execCtlEnc (cmd : BitVec 4) (s : BitVec 1) (key : BitVec 3) (i b w : BitVec 2) (reqCount : Word) (st : State) :
    StepOutcome :=
  checked [rangeError reqCount] (.word (controlWord cmd s key i b w (reqCount.extractLsb' 0 16))) st

/-- `CTL.DEC` (rules R61, R62): the seven fields, and the reserved bits as `rsv` (item U1; assumption log entry 10). -/
def execCtlDec (word : Word) (st : State) : StepOutcome :=
  succeed { rsvdNonzero := rsvdFlag (reservedBits word) } (.fields (controlFields word) (reservedBits word)) st

end Sys2Proof.Machine
end

