-- ==== Sys2Proof/Machine/DescriptorDecode.lean ====
section
/-! DEFINITION. The descriptor decode operation (rules R100 to R105). -/

namespace Sys2Proof.Machine

/-- `DESC.DEC` (rule R100): total, whatever the bytes. -/
def execDescDec (slot : Bytes16) (prevValid : BitVec 1) (prev : Bytes16) (st : State) : StepOutcome :=
  reply (describeSlot st.cfg slot prevValid prev) st

end Sys2Proof.Machine
end

