-- ==== Sys2Proof/Machine/DescriptorEncode.lean ====
section
/-! DEFINITION. The descriptor encode operations (rules R85 to R92).  Each lists its checks in the order of rule
R129 and its bytes as the layout rules R44, R45, R47 give them. -/

namespace Sys2Proof.Machine

/-- `ENC.SV` (rule R86). -/
def execEncSv (value : BitVec 16) (dataAddress ptrAddr ptrZ : Word) (s : BitVec 1) (i w : BitVec 2) (st : State) :
    StepOutcome :=
  checked [targetError ptrAddr, dataError st.cfg dataAddress]
    (.bytes16 (standardDescriptor st.cfg
      (controlWord st.cfg.cmdStoreValue s st.cfg.keyStore i st.cfg.bNever w value) dataAddress (pack ptrAddr ptrZ))) st

/-- `ENC.OM` (rule R87). -/
def execEncOm (reqCount dataAddress : Word) (s : BitVec 1) (i w : BitVec 2) (st : State) : StepOutcome :=
  checked [rangeError reqCount, dataError st.cfg dataAddress]
    (.bytes16 (standardDescriptor st.cfg
      (controlWord st.cfg.cmdOutputMore s st.cfg.keyStandard i st.cfg.bNever w (reqCount.extractLsb' 0 16))
      dataAddress 0)) st

/-- `ENC.OMI` (rule R88). -/
def execEncOmi (q0 q1 ptrAddr ptrZ : Word) (s : BitVec 1) (i w : BitVec 2) (st : State) : StepOutcome :=
  checked [targetError ptrAddr]
    (.bytes32 (immediateDescriptor st.cfg
      (controlWord st.cfg.cmdOutputMore s Config.keyImmediate i st.cfg.bNever w st.cfg.immReq)
      (pack ptrAddr ptrZ) q0 q1)) st

/-- `ENC.OL` (rule R89). -/
def execEncOl (reqCount dataAddress ptrAddr ptrZ : Word) (s : BitVec 1) (i w : BitVec 2) (st : State) : StepOutcome :=
  checked [rangeError reqCount, targetError ptrAddr, dataError st.cfg dataAddress]
    (.bytes16 (standardDescriptor st.cfg
      (controlWord Config.cmdOutputLast s st.cfg.keyStandard i st.cfg.bAlways w (reqCount.extractLsb' 0 16))
      dataAddress (pack ptrAddr ptrZ))) st

/-- `ENC.OLI` (rule R90). -/
def execEncOli (q0 q1 ptrAddr ptrZ : Word) (s : BitVec 1) (i w : BitVec 2) (st : State) : StepOutcome :=
  checked [targetError ptrAddr]
    (.bytes32 (immediateDescriptor st.cfg
      (controlWord Config.cmdOutputLast s Config.keyImmediate i st.cfg.bAlways w st.cfg.immReq)
      (pack ptrAddr ptrZ) q0 q1)) st

/-- `ENC.OLS` (rule R92). -/
def execEncOls (ptrAddr ptrZ : Word) (s : BitVec 1) (i w : BitVec 2) (st : State) : StepOutcome :=
  checked [targetError ptrAddr]
    (.bytes16 (standardDescriptor st.cfg
      (controlWord Config.cmdOutputLast s st.cfg.keyStandard i st.cfg.bAlways w 0) 0 (pack ptrAddr ptrZ))) st

end Sys2Proof.Machine
end

