-- ==== Sys2Proof/Machine/Pointer.lean ====
section
/-! DEFINITION. The pointer operations (rules R70 to R77). -/

namespace Sys2Proof.Machine

/-- `PTR.PACK` (rule R70): it masks and never fails. -/
def execPtrPack (addr z : Word) (st : State) : StepOutcome := succeed .none (.word (pack addr z)) st

/-- `PTR.UNPACK` (rule R72). -/
def execPtrUnpack (word : Word) (st : State) : StepOutcome :=
  succeed .none (.pointer (unpackAddr word) (unpackZ word)) st

/-- `PTR.CHECK` (rule R74): both halves are returned even when the flag is set. -/
def execPtrCheck (word trueZ : Word) (st : State) : StepOutcome :=
  succeed { zMismatch := zMismatchFlag word trueZ } (.pointer (unpackAddr word) (unpackZ word)) st

/-- `PTR.CLASS` (rule R75). -/
def execPtrClass (word : Word) (st : State) : StepOutcome := succeed (pointerFlags word) (.ptrClass (classify word)) st

/-- `ZVAL` (rule R76): the sum is on naturals and the result is not masked. -/
def execZval (totalBytes : Word) (st : State) : StepOutcome :=
  succeed .none (.zValue (BitVec.ofNat 32 (slotsFor totalBytes.toNat))) st

/-- The optional index of `IDX.RESOLVE` (rule R77), on naturals, with no wrap (rule R58). -/
def resolveIndex (commandPtr baseAddress : Word) : Option Word :=
  if outOfRangeFlag commandPtr baseAddress || baseMisalignedFlag commandPtr baseAddress then none
  else some (BitVec.ofNat 32 (((unpackAddr commandPtr).toNat - baseAddress.toNat) / Config.slotBytes))

/-- `IDX.RESOLVE` (rule R77). -/
def execIdxResolve (commandPtr baseAddress : Word) (st : State) : StepOutcome :=
  succeed
    { outOfRange := outOfRangeFlag commandPtr baseAddress, baseMisaligned := baseMisalignedFlag commandPtr baseAddress }
    (.index (resolveIndex commandPtr baseAddress)) st

end Sys2Proof.Machine
end

