-- ==== Sys2Proof/Machine/Status.lean ====
section
/-! DEFINITION. The status word operations (rules R115 to R118). -/

namespace Sys2Proof.Machine

/-- `STAT.DEC` (rule R116). -/
def execStatDec (word : Word) (st : State) : StepOutcome :=
  succeed .none
    (.status (xferStatusOf st.cfg word) (timeStampOf st.cfg word) (eventCodeOf (xferStatusOf st.cfg word))) st

/-- `STAT.ENC` (rule R117). -/
def execStatEnc (xferStatus timeStamp : BitVec 16) (st : State) : StepOutcome :=
  succeed .none (.word (statusWord st.cfg xferStatus timeStamp)) st

/-- The benign set of rule R118. -/
def isBenign (cfg : Config) (eventCode : Byte) : Bool :=
  eventCode == cfg.evtNoStatus || eventCode == cfg.evtAckComplete || eventCode == cfg.evtAckPending

/-- `EVT.BENIGN` (rule R118). -/
def execEvtBenign (eventCode : Byte) (st : State) : StepOutcome :=
  succeed .none (.benign (isBenign st.cfg eventCode)) st

end Sys2Proof.Machine
end

