-- ==== Sys2Proof/Machine/Variants.lean ====
section
/-! DEFINITION. The descriptor variants as instructions: what the codec answers when the bytes of one are handed to
it to be read.

The codec reads a descriptor in one way only, `DESC.DEC` (rule R100), here with no preceding slot.  What the DMA
engine does with the bytes is no rule of the spec (rule R13) and no part of these meanings.  DEDUCED, assumption log
entry 6.  The quadlets and the pad of a 32-byte variant are part of the instruction and not of the response: rule R103
says that `DESC.DEC` does not return them (entry 7). -/

namespace Sys2Proof.Machine

/-- The report on a variant read with no preceding slot: its kind is known, it is not the fill pattern. -/
def variantReport (cfg : Config) (kind : Kind) (cmd : BitVec 4) (key : BitVec 3) (c : Controls) (reqCount : BitVec 16)
    (w1 w2 w3 : Word) : Response :=
  slotReport cfg kind (variantFields cmd key c reqCount) c.rsv false false w1 w2 w3

/-- A StoreValue (rules R45, R103): the count field is the stored value. -/
def execStoreValue (c : Controls) (value : BitVec 16) (w1 w2 w3 : Word) (st : State) : StepOutcome :=
  reply (variantReport st.cfg .storeValue st.cfg.cmdStoreValue st.cfg.keyStore c value w1 w2 w3) st

/-- An OutputMore (rules R44, R103). -/
def execOutputMore (c : Controls) (reqCount : BitVec 16) (w1 w2 w3 : Word) (st : State) : StepOutcome :=
  reply (variantReport st.cfg .outputMore st.cfg.cmdOutputMore st.cfg.keyStandard c reqCount w1 w2 w3) st

/-- An OutputMoreImmediate (rules R47, R103). -/
def execOutputMoreImmediate (c : Controls) (reqCount : BitVec 16) (w1 w2 w3 : Word) (st : State) : StepOutcome :=
  reply (variantReport st.cfg .outputMoreImmediate st.cfg.cmdOutputMore Config.keyImmediate c reqCount w1 w2 w3) st

/-- An OutputLast (rules R44, R103).  On count 0, which no decoding gives: DESIGN CHOICE, assumption log entry 18. -/
def execOutputLast (c : Controls) (reqCount : BitVec 16) (w1 w2 w3 : Word) (st : State) : StepOutcome :=
  reply (variantReport st.cfg .outputLast Config.cmdOutputLast st.cfg.keyStandard c reqCount w1 w2 w3) st

/-- An OutputLastImmediate (rules R47, R103). -/
def execOutputLastImmediate (c : Controls) (reqCount : BitVec 16) (w1 w2 w3 : Word) (st : State) : StepOutcome :=
  reply (variantReport st.cfg .outputLastImmediate Config.cmdOutputLast Config.keyImmediate c reqCount w1 w2 w3) st

/-- An OutputLastSkip (rules R44, R103): its count is 0. -/
def execOutputLastSkip (c : Controls) (w1 w2 w3 : Word) (st : State) : StepOutcome :=
  reply (variantReport st.cfg .outputLastSkip Config.cmdOutputLast st.cfg.keyStandard c 0 w1 w2 w3) st

end Sys2Proof.Machine
end

