-- ==== Sys2Proof/Machine/Dispatch.lean ====
section
/-! DEFINITION. One arm per instruction. -/

namespace Sys2Proof.Machine

def exec (i : Instr) (s : State) : Host.Outcome State Fault Refusal :=
  match i with
  | .ctlEnc cmd sw key irq b w reqCount => Sys2Proof.Machine.execCtlEnc cmd sw key irq b w reqCount s
  | .ctlDec word => Sys2Proof.Machine.execCtlDec word s
  | .ptrPack addr z => Sys2Proof.Machine.execPtrPack addr z s
  | .ptrUnpack word => Sys2Proof.Machine.execPtrUnpack word s
  | .ptrCheck word trueZ => Sys2Proof.Machine.execPtrCheck word trueZ s
  | .ptrClass word => Sys2Proof.Machine.execPtrClass word s
  | .zval totalBytes => Sys2Proof.Machine.execZval totalBytes s
  | .idxResolve commandPtr baseAddress => Sys2Proof.Machine.execIdxResolve commandPtr baseAddress s
  | .encSv value dataAddress ptrAddr ptrZ sw irq w => Sys2Proof.Machine.execEncSv value dataAddress ptrAddr ptrZ sw irq w s
  | .encOm reqCount dataAddress sw irq w => Sys2Proof.Machine.execEncOm reqCount dataAddress sw irq w s
  | .encOmi q0 q1 ptrAddr ptrZ sw irq w => Sys2Proof.Machine.execEncOmi q0 q1 ptrAddr ptrZ sw irq w s
  | .encOl reqCount dataAddress ptrAddr ptrZ sw irq w => Sys2Proof.Machine.execEncOl reqCount dataAddress ptrAddr ptrZ sw irq w s
  | .encOli q0 q1 ptrAddr ptrZ sw irq w => Sys2Proof.Machine.execEncOli q0 q1 ptrAddr ptrZ sw irq w s
  | .encOls ptrAddr ptrZ sw irq w => Sys2Proof.Machine.execEncOls ptrAddr ptrZ sw irq w s
  | .descDec slot prevValid prev => Sys2Proof.Machine.execDescDec slot prevValid prev s
  | .statDec word => Sys2Proof.Machine.execStatDec word s
  | .statEnc xferStatus timeStamp => Sys2Proof.Machine.execStatEnc xferStatus timeStamp s
  | .evtBenign eventCode => Sys2Proof.Machine.execEvtBenign eventCode s
  | .storeValue c value w1 w2 w3 => Sys2Proof.Machine.execStoreValue c value w1 w2 w3 s
  | .outputMore c reqCount w1 w2 w3 => Sys2Proof.Machine.execOutputMore c reqCount w1 w2 w3 s
  | .outputMoreImmediate c reqCount w1 w2 w3 _ _ _ _ => Sys2Proof.Machine.execOutputMoreImmediate c reqCount w1 w2 w3 s
  | .outputLast c reqCount w1 w2 w3 => Sys2Proof.Machine.execOutputLast c reqCount w1 w2 w3 s
  | .outputLastImmediate c reqCount w1 w2 w3 _ _ _ _ => Sys2Proof.Machine.execOutputLastImmediate c reqCount w1 w2 w3 s
  | .outputLastSkip c w1 w2 w3 => Sys2Proof.Machine.execOutputLastSkip c w1 w2 w3 s

end Sys2Proof.Machine
end

