-- ==== Sys2Proof/Machine/Step.lean ====
section
/-! DEFINITION. One step: the request the requester sends next is taken, decoded and answered (rule R10). -/

namespace Sys2Proof.Machine

/-- One transaction.  The request leaves the requester's side and its response stands on the response port. -/
def step (s : State) : Host.Outcome State Fault Refusal :=
  match s.requests with
  | [] => .fault .noRequest
  | inp :: rest =>
    match decode s.cfg inp with
    | .ok i => exec i { s with requests := rest }
    | .error e => reply (undecodedResponse s.cfg e) { s with requests := rest }

/-- `s` with the instruction whose bits are `w` as the next one the requester sends.  The codec fetches from no memory
(rules R15, R17): the requester's side of the request port is where the next instruction stands. -/
def State.withFetchWord (s : State) (nbits w : Nat) : State :=
  { s with requests := tableInput s.cfg nbits w :: s.requests }

end Sys2Proof.Machine
end

