-- ==== Sys2Proof/Machine/Diagnose.lean ====
section
/-! DEFINITION. How a requester diagnoses a stopped engine with the codec's decode operations (rules R103, R106).

The steps are the requester's, recorded by rule R106 so that one can be written; the codec's part is the three requests
they send.  No step of the machine reads what stands here. -/

namespace Sys2Proof.Machine

/-- The three signature tags of rule R106 step 5. -/
inductive Signature where
  | uninitializedDescriptor
  | nullBranchWithNonzeroZ
  | deliberateStop
deriving DecidableEq, Repr

/-- An event of the trace (rule R106 step 1), already parsed. -/
structure TraceEvent where
  eventCode  : Byte
  commandPtr : Option Word
  dead       : Bool
deriving DecidableEq, Repr

/-- What a diagnosis answers: the slot index and every signature that matches, or `InsufficientData` (step 6). -/
inductive Diagnosis where
  | found (index : Word) (tags : List Signature)
  | insufficientData
deriving DecidableEq, Repr

/-- A descriptor of the OutputLast family (rule R9). -/
def isTerminal (kind : Kind) : Bool :=
  match kind with
  | .outputLast | .outputLastImmediate | .outputLastSkip => true
  | .storeValue | .outputMore | .outputMoreImmediate | .unknown => false

/-- The tags that the flags of a `DESC.DEC` response stand for (rules R103, R106 step 5): all that match at once, the
choice among them being the requester's.  The pointer flags of a kind that is not terminal speak of a skip pointer, for
which there is no tag. -/
def signatures (r : Response) : List Signature :=
  match r with
  | .ok f (.descriptor kind _ _ _ _ _ _) =>
    (if f.uninit then [.uninitializedDescriptor] else [])
      ++ (if f.nullNonzeroZ && isTerminal kind then [.nullBranchWithNonzeroZ] else [])
      ++ (if f.stop && isTerminal kind then [.deliberateStop] else [])
  | .ok _ _ => []
  | .error _ => []

/-- The critical event (rule R106 step 2): the first that is dead or not benign, else the last. -/
def criticalEvent (cfg : Config) (events : List TraceEvent) : Option TraceEvent :=
  match events.find? fun e => e.dead || !isBenign cfg e.eventCode with
  | some e => some e
  | none => events.getLast?

/-- The request on slot `index` of a memory image with the slot before it (rule R106 step 4); slot 0 has none (rule
R100).  None where the image does not hold the slot (rule R77: the requester's test). -/
def slotRequest (image : List Bytes16) (index : Nat) : Option Instr :=
  match index with
  | 0 => image[0]?.map fun slot => .descDec slot 0 .zeros
  | n + 1 =>
    match image[n]?, image[n + 1]? with
    | some prev, some slot => some (.descDec slot 1 prev)
    | _, _ => none

/-- The response of an outcome. -/
def responseOf (o : StepOutcome) : Option Response :=
  match o with
  | .next t => t.response
  | .fault _ => none
  | .refused _ => none

/-- Steps 4 and 5 of rule R106 on a resolved index. -/
def diagnoseSlot (image : List Bytes16) (index : Word) (s : State) : Diagnosis :=
  match slotRequest image index.toNat with
  | some i =>
    match responseOf (exec i s) with
    | some r => .found index (signatures r)
    | none => .insufficientData
  | none => .insufficientData

/-- Steps 2 to 6 of rule R106: whatever is missing or flagged by `IDX.RESOLVE` degrades to `InsufficientData`. -/
def diagnose (events : List TraceEvent) (base : Option Word) (image : List Bytes16) (s : State) : Diagnosis :=
  match (criticalEvent s.cfg events).bind TraceEvent.commandPtr, base with
  | some commandPtr, some baseAddress =>
    match responseOf (exec (.idxResolve commandPtr baseAddress) s) with
    | some (.ok _ (.index (some index))) => diagnoseSlot image index s
    | _ => .insufficientData
  | _, _ => .insufficientData

end Sys2Proof.Machine
end

