-- ==== Sys2Proof/Machine/Pseudo.lean ====
section
/-! DEFINITION. The pseudo-operations of rule R57: the source's spellings and the operations they expand to. -/

namespace Sys2Proof.Machine

/-- `pack(addr, z)`. -/
def pseudoPack (addr z : Word) : Instr := .ptrPack addr z

/-- `decodeControlWord(word)`. -/
def pseudoDecodeControlWord (word : Word) : Instr := .ctlDec word

/-- `encode(descriptor)`: the encode operation of the descriptor's variant, all six matched. -/
def pseudoEncode (d : Descriptor) (s : BitVec 1) (i w : BitVec 2) : Instr :=
  match d with
  | .storeValue value dataAddress skipAddr skipZ => .encSv value dataAddress skipAddr skipZ s i w
  | .outputMore reqCount dataAddress => .encOm reqCount dataAddress s i w
  | .outputMoreImmediate q0 q1 skipAddr skipZ => .encOmi q0 q1 skipAddr skipZ s i w
  | .outputLast reqCount dataAddress branchAddr branchZ => .encOl reqCount dataAddress branchAddr branchZ s i w
  | .outputLastImmediate q0 q1 branchAddr branchZ => .encOli q0 q1 branchAddr branchZ s i w
  | .outputLastSkip branchAddr branchZ => .encOls branchAddr branchZ s i w

/-- `commandPtr & ~0xF`: the operation whose `addr` result it is. -/
def pseudoMaskPointer (commandPtr : Word) : Instr := .ptrUnpack commandPtr

/-- `irq:bool` of a packet intent as the `i` field (D28, the requester's mapping).  DESIGN CHOICE of the
spec, assumption log entry 20. -/
def irqField (irq : Bool) : BitVec 2 := if irq then 3 else 0

/-- `size(variant)` of rule R46, in bytes; the decoder's verdict `Unknown` has no variant and no size here. -/
def variantSize (kind : Kind) : Option Nat :=
  match kind with
  | .outputMoreImmediate | .outputLastImmediate => some 32
  | .storeValue | .outputMore | .outputLast | .outputLastSkip => some 16
  | .unknown => none

end Sys2Proof.Machine
end

