-- ==== Sys2Proof/Machine/Text.lean ====
section
/-! DEFINITION. The textual form of requests and responses (rule R56).  A notation only: no step reads it.

The rule leaves the base of a number open: words are written in hexadecimal, narrow fields and counts in decimal
(DESIGN CHOICE, assumption log entry 17). -/

namespace Sys2Proof.Machine

/-- A hexadecimal digit. -/
def hexDigit (n : Nat) : Char := "0123456789ABCDEF".toList.getD (n % 16) '0'

/-- The last `digits` hexadecimal digits of a number. -/
def hexDigits (digits n : Nat) : List Char :=
  match digits with
  | 0 => []
  | d + 1 => hexDigits d (n / 16) ++ [hexDigit n]

/-- The decimal digits of a number of at most `digits` digits, with no leading zero. -/
def decDigits (digits n : Nat) : List Char :=
  match digits with
  | 0 => []
  | d + 1 => (if n < 10 then [] else decDigits d (n / 10)) ++ [hexDigit (n % 10)]

/-- A word: `0x` and eight digits. -/
def wordText (v : Word) : List Char := "0x".toList ++ hexDigits 8 v.toNat

/-- A number with no leading zero after `0x`. -/
def infoText (v : Word) : List Char :=
  "0x".toList ++ match (hexDigits 8 v.toNat).dropWhile (· == '0') with
    | [] => ['0']
    | d :: ds => d :: ds

/-- A narrow value in decimal. -/
def smallText (n : Nat) : List Char := decDigits 10 n

/-- A byte string: two-digit bytes separated by spaces, lowest address first. -/
def bytesText (bs : List Byte) : List Char :=
  match bs with
  | [] => []
  | [b] => hexDigits 2 b.toNat
  | b :: rest => hexDigits 2 b.toNat ++ ' ' :: bytesText rest

/-- `name=value`. -/
def operandText (name : String) (value : List Char) : List Char := name.toList ++ '=' :: value

/-- Items with a separator between them. -/
def joinText (sep : String) (items : List (List Char)) : List Char :=
  match items with
  | [] => []
  | [x] => x
  | x :: rest => x ++ sep.toList ++ joinText sep rest

/-- The control operands `s`, `i`, `w` common to the encode operations. -/
def controlOperands (s : BitVec 1) (i w : BitVec 2) : List (List Char) :=
  [operandText "s" (smallText s.toNat), operandText "i" (smallText i.toNat), operandText "w" (smallText w.toNat)]

/-- The control bits and header words of a variant as the requester hands them over. -/
def variantOperands (c : Controls) (countName : String) (count : BitVec 16) (w1 w2 w3 : Word) : List (List Char) :=
  controlOperands c.s c.i c.w
    ++ [operandText "b" (smallText c.b.toNat), operandText "rsv" (smallText c.rsv.toNat),
        operandText countName (smallText count.toNat),
        operandText "w1" (wordText w1), operandText "w2" (wordText w2), operandText "w3" (wordText w3)]

/-- The mnemonic of an instruction (rule R52; rule R41 for the variants). -/
def mnemonicText (i : Instr) : String :=
  match i with
  | .ctlEnc .. => "CTL.ENC"
  | .ctlDec .. => "CTL.DEC"
  | .ptrPack .. => "PTR.PACK"
  | .ptrUnpack .. => "PTR.UNPACK"
  | .ptrCheck .. => "PTR.CHECK"
  | .ptrClass .. => "PTR.CLASS"
  | .zval .. => "ZVAL"
  | .idxResolve .. => "IDX.RESOLVE"
  | .encSv .. => "ENC.SV"
  | .encOm .. => "ENC.OM"
  | .encOmi .. => "ENC.OMI"
  | .encOl .. => "ENC.OL"
  | .encOli .. => "ENC.OLI"
  | .encOls .. => "ENC.OLS"
  | .descDec .. => "DESC.DEC"
  | .statDec .. => "STAT.DEC"
  | .statEnc .. => "STAT.ENC"
  | .evtBenign .. => "EVT.BENIGN"
  | .storeValue .. => "StoreValue"
  | .outputMore .. => "OutputMore"
  | .outputMoreImmediate .. => "OutputMoreImmediate"
  | .outputLast .. => "OutputLast"
  | .outputLastImmediate .. => "OutputLastImmediate"
  | .outputLastSkip .. => "OutputLastSkip"

/-- The operands of an instruction, named as rule R11 names them. -/
def operandTexts (i : Instr) : List (List Char) :=
  match i with
  | .ctlEnc cmd s key irq b w reqCount =>
    [operandText "cmd" (smallText cmd.toNat), operandText "s" (smallText s.toNat), operandText "key" (smallText key.toNat),
     operandText "i" (smallText irq.toNat), operandText "b" (smallText b.toNat), operandText "w" (smallText w.toNat),
     operandText "reqCount" (smallText reqCount.toNat)]
  | .ctlDec word | .ptrUnpack word | .ptrClass word | .statDec word => [operandText "word" (wordText word)]
  | .ptrPack addr z => [operandText "addr" (wordText addr), operandText "z" (smallText z.toNat)]
  | .ptrCheck word trueZ => [operandText "word" (wordText word), operandText "trueZ" (smallText trueZ.toNat)]
  | .zval totalBytes => [operandText "totalBytes" (smallText totalBytes.toNat)]
  | .idxResolve commandPtr baseAddress =>
    [operandText "commandPtr" (wordText commandPtr), operandText "baseAddress" (wordText baseAddress)]
  | .encSv value dataAddress ptrAddr ptrZ s irq w =>
    [operandText "value" (smallText value.toNat), operandText "dataAddress" (wordText dataAddress),
     operandText "ptrAddr" (wordText ptrAddr), operandText "ptrZ" (smallText ptrZ.toNat)] ++ controlOperands s irq w
  | .encOm reqCount dataAddress s irq w =>
    [operandText "reqCount" (smallText reqCount.toNat), operandText "dataAddress" (wordText dataAddress)]
      ++ controlOperands s irq w
  | .encOmi q0 q1 ptrAddr ptrZ s irq w | .encOli q0 q1 ptrAddr ptrZ s irq w =>
    [operandText "q0" (wordText q0), operandText "q1" (wordText q1), operandText "ptrAddr" (wordText ptrAddr),
     operandText "ptrZ" (smallText ptrZ.toNat)] ++ controlOperands s irq w
  | .encOl reqCount dataAddress ptrAddr ptrZ s irq w =>
    [operandText "reqCount" (smallText reqCount.toNat), operandText "dataAddress" (wordText dataAddress),
     operandText "ptrAddr" (wordText ptrAddr), operandText "ptrZ" (smallText ptrZ.toNat)] ++ controlOperands s irq w
  | .encOls ptrAddr ptrZ s irq w =>
    [operandText "ptrAddr" (wordText ptrAddr), operandText "ptrZ" (smallText ptrZ.toNat)] ++ controlOperands s irq w
  | .descDec slot prevValid prev =>
    [operandText "slot" (bytesText (bytes16List slot)), operandText "prevValid" (smallText prevValid.toNat),
     operandText "prev" (bytesText (bytes16List prev))]
  | .statEnc xferStatus timeStamp =>
    [operandText "xferStatus" (smallText xferStatus.toNat), operandText "timeStamp" (smallText timeStamp.toNat)]
  | .evtBenign eventCode => [operandText "eventCode" (smallText eventCode.toNat)]
  | .storeValue c value w1 w2 w3 => variantOperands c "value" value w1 w2 w3
  | .outputMore c reqCount w1 w2 w3 | .outputLast c reqCount w1 w2 w3 => variantOperands c "reqCount" reqCount w1 w2 w3
  | .outputMoreImmediate c reqCount w1 w2 w3 q0 q1 _ _ | .outputLastImmediate c reqCount w1 w2 w3 q0 q1 _ _ =>
    variantOperands c "reqCount" reqCount w1 w2 w3 ++ [operandText "q0" (wordText q0), operandText "q1" (wordText q1)]
  | .outputLastSkip c w1 w2 w3 => variantOperands c "reqCount" 0 w1 w2 w3

/-- `MNEMONIC operand=value, ...`. -/
def requestText (i : Instr) : List Char :=
  (mnemonicText i).toList ++ ' ' :: joinText ", " (operandTexts i)

/-- The name of a kind (rule R22). -/
def kindText (k : Kind) : String :=
  match k with
  | .storeValue => "StoreValue"
  | .outputMore => "OutputMore"
  | .outputMoreImmediate => "OutputMoreImmediate"
  | .outputLast => "OutputLast"
  | .outputLastImmediate => "OutputLastImmediate"
  | .outputLastSkip => "OutputLastSkip"
  | .unknown => "Unknown"

/-- `cmd=1 s=0 key=2 i=3 b=3 w=0 reqCount=12`, as in the examples of rules R56 and R100, which write the
seven fields and not `rsv`. -/
def fieldsText (f : Fields) : List Char :=
  joinText " "
    [operandText "cmd" (smallText f.cmd.toNat), operandText "s" (smallText f.s.toNat),
     operandText "key" (smallText f.key.toNat), operandText "i" (smallText f.i.toNat),
     operandText "b" (smallText f.b.toNat), operandText "w" (smallText f.w.toNat),
     operandText "reqCount" (smallText f.reqCount.toNat)]

/-- A result. -/
def resultText (r : Result) : List Char :=
  match r with
  | .word w => wordText w
  | .fields f _ => fieldsText f
  | .pointer addr z => joinText ", " [operandText "addr" (wordText addr), operandText "z" (smallText z.toNat)]
  | .ptrClass .stop => "Stop".toList
  | .ptrClass .nullNonzeroZ => "NullNonzeroZ".toList
  | .ptrClass .valid => "Valid".toList
  | .zValue n => smallText n.toNat
  | .index none => "none".toList
  | .index (some n) => "some ".toList ++ smallText n.toNat
  | .bytes16 d => bytesText (bytes16List d)
  | .bytes32 d => bytesText (bytes32List d)
  | .descriptor kind f _ size w1 w2 w3 =>
    joinText ", "
      [operandText "kind" (kindText kind).toList, fieldsText f, operandText "size" (smallText size),
       operandText "w1" (wordText w1), operandText "w2" (wordText w2), operandText "w3" (wordText w3)]
  | .status xferStatus timeStamp eventCode =>
    joinText ", "
      [operandText "xferStatus" (smallText xferStatus.toNat), operandText "timeStamp" (smallText timeStamp.toNat),
       operandText "eventCode" (smallText eventCode.toNat)]
  | .benign true => "true".toList
  | .benign false => "false".toList

/-- The flags that are set, each written ` !FLAGNAME` (rule R16 for the names). -/
def flagsText (f : Flags) : List Char :=
  (if f.zMismatch then " !Z_MISMATCH".toList else []) ++ (if f.rsvdNonzero then " !RSVD_NONZERO".toList else [])
    ++ (if f.nullNonzeroZ then " !NULL_NONZERO_Z".toList else []) ++ (if f.stop then " !STOP".toList else [])
    ++ (if f.uninit then " !UNINIT".toList else []) ++ (if f.secondHalf then " !SECOND_HALF".toList else [])
    ++ (if f.outOfRange then " !OUT_OF_RANGE".toList else [])
    ++ (if f.baseMisaligned then " !BASE_MISALIGNED".toList else [])

/-- An error with its `info` value. -/
def errText (e : Err) : List Char :=
  match e with
  | .fieldOverflow reqCount => "FieldOverflow(".toList ++ infoText reqCount ++ [')']
  | .misalignedAddress addr => "MisalignedAddress(".toList ++ wordText addr ++ [')']
  | .illegalOp op => "IllegalOp(".toList ++ infoText (op.setWidth 32) ++ [')']

/-- `-> result !FLAG` or `-> ERR Name(info)`. -/
def responseText (r : Response) : List Char :=
  match r with
  | .ok flags result => "-> ".toList ++ resultText result ++ flagsText flags
  | .error e => "-> ERR ".toList ++ errText e

/-- A request with its response. -/
def transactionText (i : Instr) (r : Response) : String := String.ofList (requestText i ++ ' ' :: responseText r)

end Sys2Proof.Machine
end

