-- ==== Sys2Proof/Safety.lean ====
section
/-! DEFINITION. The terms in which claims are stated: what a field or a byte of a word is, what a legal response is,
and what a run answers. -/

namespace Sys2Proof.Safety

open Sys2Proof.Machine

/-- `word` is a control word with these fields at the places of rule R42 and reserved bits 0. -/
def IsControlWord (word : Word) (cmd : BitVec 4) (s : BitVec 1) (key : BitVec 3) (i b w : BitVec 2)
    (count : BitVec 16) : Prop :=
  word.extractLsb' 28 4 = cmd ∧ word.extractLsb' 27 1 = s ∧ word.extractLsb' 24 3 = key ∧
  word.extractLsb' 22 2 = 0 ∧ word.extractLsb' 20 2 = i ∧ word.extractLsb' 18 2 = b ∧
  word.extractLsb' 16 2 = w ∧ word.extractLsb' 0 16 = count

/-- `word` is the pointer word of an address and a Z (rule R43): bits 31:4 are those of the address, bits 3:0 those of
Z. -/
def IsPointerWord (word addr z : Word) : Prop :=
  word.toNat = addr.toNat / 16 * 16 + z.toNat % 16

/-- A multiple of 16 (rule R26). -/
def Aligned (addr : Word) : Prop := addr.toNat % 16 = 0

/-- A data address that the configuration lets an encoder take (rule R26). -/
def DataAllowed (cfg : Config) (dataAddress : Word) : Prop := cfg.checkDataAlign = true → Aligned dataAddress

/-- A slot holds these four header words (rules R25, R44). -/
def HoldsWords (cfg : Config) (slot : Bytes16) (w0 w1 w2 w3 : Word) : Prop :=
  slot = ⟨hdr32 cfg w0, hdr32 cfg w1, hdr32 cfg w2, hdr32 cfg w3⟩

/-- The word at place `W1`, `W2` or `W3`. -/
def At (p : WordPlace) (w1 w2 w3 v : Word) : Prop :=
  match p with
  | .w1 => w1 = v
  | .w2 => w2 = v
  | .w3 => w3 = v

/-- Every byte of a byte string is the fill byte (rule R101). -/
def AllFill (slot : Bytes16) : Prop := ∀ x ∈ bytes16List slot, x = 0xDE

/-! ## Legal responses -/

/-- An error that the codec can raise, with the `info` value that makes it one (rule R125). -/
def ErrLegal (e : Err) : Prop :=
  match e with
  | .fieldOverflow reqCount => 0xFFFF < reqCount.toNat
  | .misalignedAddress addr => ¬ Aligned addr
  | .illegalOp op => 0x12 ≤ op.toNat

/-- Only the two pointer flags, the reserved-bit flag, `UNINIT` and `SECOND_HALF` are `DESC.DEC`'s (rule R100). -/
def DescFlagsOnly (f : Flags) : Prop :=
  f.zMismatch = false ∧ f.outOfRange = false ∧ f.baseMisaligned = false

/-- A result and flags that some operation can answer together: each result carries only the flags its operation
sets (rule R16), and the flags say of the result what the rules say. -/
def ResultLegal (cfg : Config) (f : Flags) (r : Result) : Prop :=
  match r with
  | .word _ | .bytes16 _ | .zValue _ | .benign _ => f = .none
  | .bytes32 d => f = .none ∧ d.second.w2 = .zeros ∧ d.second.w3 = .zeros
  | .fields _ rsv => f = { rsvdNonzero := decide (rsv ≠ 0) }
  | .pointer addr z => Aligned addr ∧ f = { zMismatch := f.zMismatch } ∧ z.toNat < 16
  | .ptrClass c => f = { stop := decide (c = .stop), nullNonzeroZ := decide (c = .nullNonzeroZ) }
  | .index ix =>
    f = { outOfRange := f.outOfRange, baseMisaligned := f.baseMisaligned } ∧
    ¬ (f.outOfRange = true ∧ f.baseMisaligned = true) ∧
    (ix = none ↔ f.outOfRange = true ∨ f.baseMisaligned = true) ∧
    (∀ n, ix = some n → n.toNat < 2 ^ 28)
  | .descriptor kind fields rsv size _ _ _ =>
    DescFlagsOnly f ∧ f.rsvdNonzero = decide (rsv ≠ 0) ∧ ¬ (f.stop = true ∧ f.nullNonzeroZ = true) ∧
    (size = 32 ∧ fields.key = 2 ∨ size = 16 ∧ fields.key ≠ 2) ∧
    (kind = .unknown ∨ kind = .outputMore → f.stop = false ∧ f.nullNonzeroZ = false) ∧
    (f.uninit = true → kind = .unknown) ∧
    (f.uninit = false → kind = selectKind cfg fields)
  | .status xferStatus _ eventCode => f = .none ∧ eventCode.toNat = xferStatus.toNat % 256

/-- A response the codec can give under a configuration. -/
def ResponseLegal (cfg : Config) (r : Response) : Prop :=
  match r with
  | .error e => ErrLegal e
  | .ok f result => ResultLegal cfg f result

/-- The machine's invariant: what stands on the response port is a legal response. -/
def Inv (s : State) : Prop := ∀ r, s.response = some r → ResponseLegal s.cfg r

/-! ## Runs -/

/-- The response a request gets alone: sent to a codec that has answered nothing before (rules R12, R32). -/
def responseAlone (cfg : Config) (inp : Input) : Option Response :=
  match step ⟨cfg, [inp], none⟩ with
  | .next t => t.response
  | .fault _ => none
  | .refused _ => none

/-- The responses the requester sees in `k` steps, in order (rule R157). -/
def transcript (k : Nat) (s : State) : List (Option Response) :=
  match k with
  | 0 => []
  | k + 1 =>
    match step s with
    | .next t => t.response :: transcript k t
    | .fault _ => []
    | .refused _ => []

end Sys2Proof.Safety
end

