-- ==== Sys2Proof/Certificates/Slice0/Obligations.lean ====
section
/-! DEFINITION. The statements for the provers.  Each says of every state what an operation, the machine or the
encoding does; the conclusion `.next { s with response := some r }` is also the frame: the configuration and what the
requester has still to send are as before (`Obligations.ExecAnswersAndChangesNothingElse` says it of all). -/

open Sys2Proof Sys2Proof.Machine Sys2Proof.Safety

/-! ## The machine -/

/-- Rules R21 and R145: after reset the response port carries no response; a reset leaves the parameters; a reset during a
request loses that request.  The model's own are these: that `State.reset` holds the default configuration and an empty
sequence of requests (assumption log entries 2 and 3), and that a reset leaves what the requester has still to send, so
that one during a request drops the head of that sequence and no more (entry 14). -/
def Obligations.ResetEmptiesTheResponsePort : Prop :=
  State.reset.response = none ∧ State.reset.requests = [] ∧ State.reset.cfg = Config.default ∧
  ∀ s : State,
    hostReset s = { s with response := none } ∧
    hostResetDuringRequest s = { s with requests := s.requests.tail, response := none }

/-- The codec executes one step per request and a step runs the decoded instruction, on the state the request has left
(rule R10, section Agents). -/
def Obligations.StepRunsTheDecodedInstruction : Prop :=
  ∀ (s : State) (inp : Input) (rest : List Input) (i : Instr),
    s.requests = inp :: rest → decode s.cfg inp = .ok i → step s = exec i { s with requests := rest }

/-- There is "no step that the requester does not ask for" (section Agents): with nothing sent, `step` stops.  That it
stops with a fault and does not idle is the model's choice (assumption log entry 4). -/
def Obligations.StepStopsOnlyWithoutRequest : Prop :=
  ∀ s : State, (s.requests = [] ↔ step s = .fault .noRequest) ∧ ∀ m, step s ≠ .refused m

/-- Rule R53, with the response parts of rules R12 and R125 as numbers. -/
def Obligations.ReservedSelectorAnswersIllegalOp : Prop :=
  ∀ (s : State) (op : BitVec 5) (p : Ports) (rest : List Input),
    0x12 ≤ op.toNat → s.requests = .request op p :: rest →
    ∃ r, step s = .next { s with requests := rest, response := some r } ∧
      r = .error (.illegalOp op) ∧ responseStatus r = 1 ∧ responseErr r = some 3 ∧ responseFlags r = 0 ∧
      responseResult r = none

/-- The operation map (section The operation map): each selector with the operands its row lists.  The numbers are the
spec's decision D3 (assumption log entry 15). -/
def Obligations.OperationMapDecodes : Prop :=
  ∀ (cfg : Config) (p : Ports),
    decode cfg (.request 0x00 p) = .ok (.ctlEnc p.cmd p.s p.key p.i p.b p.w p.reqCount) ∧
    decode cfg (.request 0x01 p) = .ok (.ctlDec p.word) ∧
    decode cfg (.request 0x02 p) = .ok (.ptrPack p.addr p.z) ∧
    decode cfg (.request 0x03 p) = .ok (.ptrUnpack p.word) ∧
    decode cfg (.request 0x04 p) = .ok (.ptrCheck p.word p.trueZ) ∧
    decode cfg (.request 0x05 p) = .ok (.ptrClass p.word) ∧
    decode cfg (.request 0x06 p) = .ok (.zval p.totalBytes) ∧
    decode cfg (.request 0x07 p) = .ok (.idxResolve p.commandPtr p.baseAddress) ∧
    decode cfg (.request 0x08 p) = .ok (.encSv p.value p.dataAddress p.ptrAddr p.ptrZ p.s p.i p.w) ∧
    decode cfg (.request 0x09 p) = .ok (.encOm p.reqCount p.dataAddress p.s p.i p.w) ∧
    decode cfg (.request 0x0A p) = .ok (.encOmi p.q0 p.q1 p.ptrAddr p.ptrZ p.s p.i p.w) ∧
    decode cfg (.request 0x0B p) = .ok (.encOl p.reqCount p.dataAddress p.ptrAddr p.ptrZ p.s p.i p.w) ∧
    decode cfg (.request 0x0C p) = .ok (.encOli p.q0 p.q1 p.ptrAddr p.ptrZ p.s p.i p.w) ∧
    decode cfg (.request 0x0D p) = .ok (.encOls p.ptrAddr p.ptrZ p.s p.i p.w) ∧
    decode cfg (.request 0x0E p) = .ok (.descDec p.slot p.prevValid p.prev) ∧
    decode cfg (.request 0x0F p) = .ok (.statDec p.word) ∧
    decode cfg (.request 0x10 p) = .ok (.statEnc p.xferStatus p.timeStamp) ∧
    decode cfg (.request 0x11 p) = .ok (.evtBenign p.eventCode) ∧
    ∀ op : BitVec 5, 0x12 ≤ op.toNat → decode cfg (.request op p) = .error (.reservedSelector op)

/-- Words written out from the opcode table decode to the instructions they stand for: one of each family, and the six
variants, each with its fields at the places of rule R42.  They are decoded under the default parameters (assumption log
entry 2), and that a request's word is a byte with the selector in its low bits and every port 0 is the model's choice
(entry 5). -/
def Obligations.TableWordsDecode : Prop :=
  decodeTableWord 8 0x00 = some (.ctlEnc 0 0 0 0 0 0 0) ∧
  decodeTableWord 8 0x07 = some (.idxResolve 0 0) ∧
  decodeTableWord 8 0x0B = some (.encOl 0 0 0 0 0 0 0) ∧
  decodeTableWord 8 0x0E = some (.descDec .zeros 0 .zeros) ∧
  decodeTableWord 8 0x10 = some (.statEnc 0 0) ∧
  decodeTableWord 8 0x12 = none ∧
  decodeTableWord 32 0x8E23BEEF = some (.storeValue ⟨1, 0, 2, 0, 3⟩ 0xBEEF 0 0 0) ∧
  decodeTableWord 32 0x00200020 = some (.outputMore ⟨0, 0, 2, 0, 0⟩ 0x20 0 0 0) ∧
  decodeTableWord 32 0x02400008 = some (.outputMoreImmediate ⟨0, 1, 0, 0, 0⟩ 8 0 0 0 0 0 .zeros .zeros) ∧
  decodeTableWord 32 0x103C0040 = some (.outputLast ⟨0, 0, 3, 3, 0⟩ 0x40 0 0 0) ∧
  decodeTableWord 32 0x123C000C = some (.outputLastImmediate ⟨0, 0, 3, 3, 0⟩ 12 0 0 0 0 0 .zeros .zeros) ∧
  decodeTableWord 32 0x100C0000 = some (.outputLastSkip ⟨0, 0, 0, 3, 0⟩ 0 0 0) ∧
  decodeTableWord 32 0x22000000 = none

/-- Decoding undoes encoding, for every instruction and every configuration under which the variants can be told
apart. -/
def Obligations.DecodeUndoesEncode : Prop :=
  ∀ (cfg : Config) (i : Instr), cfg.wellFormed = true → i.wellFormed = true → decode cfg (encode cfg i) = .ok i

/-- Encoding undoes decoding on the bytes the descriptor occupies, under every configuration: a decoded descriptor
drops no bit of its first slot, and an immediate one none of its second. -/
def Obligations.EncodeUndoesDecodeOfDescriptors : Prop :=
  ∀ (cfg : Config) (slot next : Bytes16) (i : Instr),
    decode cfg (.descriptor slot next) = .ok i →
    i.wellFormed = true ∧
    ∃ next', encode cfg i = .descriptor slot next' ∧
      ((selectKind cfg (controlFields (unhdr32 cfg slot.w0)) = .outputMoreImmediate ∨
        selectKind cfg (controlFields (unhdr32 cfg slot.w0)) = .outputLastImmediate) → next' = next)

/-- Every instruction answers in every state, and the response port is all it changes. -/
def Obligations.ExecAnswersAndChangesNothingElse : Prop :=
  ∀ (i : Instr) (s : State), ∃ r, exec i s = .next { s with response := some r }

/-- Every request is answered: the codec cannot hang, stall or wait (section Timing).  A step takes the request, sets the
response port and changes nothing else. -/
def Obligations.StepAnswersEveryRequest : Prop :=
  ∀ (s : State) (inp : Input) (rest : List Input), s.requests = inp :: rest →
    ∃ r, step s = .next { s with requests := rest, response := some r }

/-- A response depends only on its own request and on the parameters: two states with the same configuration and the
same next request, whatever else differs in them, answer the same (sections The request and response ports, Ordering
and synchronisation). -/
def Obligations.ResponseDependsOnItsRequestAlone : Prop :=
  ∀ (s t : State) (inp : Input) (restS restT : List Input),
    s.cfg = t.cfg → s.requests = inp :: restS → t.requests = inp :: restT →
    ∃ r, responseAlone s.cfg inp = some r ∧
      step s = .next { s with requests := restS, response := some r } ∧
      step t = .next { t with requests := restT, response := some r }

/-- A run of any requests, sent from any state, answers each of them, in order, with the response it would get alone,
and ends with nothing left to send (sections Timing, The end of a run). -/
def Obligations.RunAnswersEachRequestAsIfAlone : Prop :=
  ∀ s : State,
    transcript s.requests.length s = s.requests.map (responseAlone s.cfg) ∧
    (∀ x ∈ transcript s.requests.length s, x.isSome = true) ∧
    ∃ t, Host.Core.run Sys2Proof.core s.requests.length s = .next t ∧ t.cfg = s.cfg ∧ t.requests = [] ∧
      t.response = ((transcript s.requests.length s).getLast?.getD s.response)

/-- Error entry (rule R130): an error ends the one request that met it; the response is the error, with its code, no flag
and no result, and the machine is otherwise as it was before the request. -/
def Obligations.ErrorEntersNothing : Prop :=
  ∀ (s t : State) (inp : Input) (rest : List Input) (e : Err),
    s.requests = inp :: rest → step s = .next t → t.response = some (.error e) →
    t = { s with requests := rest, response := some (.error e) } ∧
    responseStatus (.error e) = 1 ∧ responseErr (.error e) = some (errCode e) ∧ responseFlags (.error e) = 0 ∧
    responseResult (.error e) = none

/-- A failed request leaves no trace: the requests after it are served as if it had never been sent, and repeated it fails
again, identically (rule R131). -/
def Obligations.FailedRequestLeavesNoTrace : Prop :=
  ∀ (s t : State) (bad : Input) (good : Input) (rest : List Input) (e : Err),
    s.requests = bad :: good :: rest → step s = .next t → t.response = some (.error e) →
    step t = step { s with requests := good :: rest } ∧
    step { t with requests := bad :: good :: rest } = .next t

/-- What stands on the response port is a legal response, and a step keeps it so, whatever the request (that a decoded
word's `rsv` is part of it: assumption log entry 10). -/
def Obligations.StepKeepsResponsesLegal : Prop :=
  ∀ s t : State, Inv s → step s = .next t → Inv t

/-- The invariant holds after reset. -/
def Obligations.ResetHasTheInvariant : Prop := Inv State.reset

/-- Which operation can fail and with which error (section The source's taxonomy): only `CTL.ENC`, `ENC.OM`, `ENC.OL`
overflow, only the five encoders with a pointer target, and `ENC.OM` with `CHECK_DATA_ALIGN`, are misaligned; no other
operation fails. -/
def Obligations.OnlyEncodersFail : Prop :=
  ∀ (i : Instr) (s t : State) (e : Err), exec i s = .next t → t.response = some (.error e) →
    (e = .fieldOverflow (match i with
        | .ctlEnc _ _ _ _ _ _ n | .encOm n _ _ _ _ | .encOl n _ _ _ _ _ _ => n
        | _ => 0) ∧
      (match i with
        | .ctlEnc _ _ _ _ _ _ n | .encOm n _ _ _ _ | .encOl n _ _ _ _ _ _ => 0xFFFF < n.toNat
        | _ => False)) ∨
    (∃ a, e = .misalignedAddress a ∧ ¬ Aligned a ∧
      (match i with
        | .encSv _ d p _ _ _ _ | .encOl _ d p _ _ _ _ => a = p ∨ (s.cfg.checkDataAlign = true ∧ a = d)
        | .encOm _ d _ _ _ => s.cfg.checkDataAlign = true ∧ a = d
        | .encOmi _ _ p _ _ _ _ | .encOli _ _ p _ _ _ _ | .encOls p _ _ _ _ => a = p
        | _ => False))

/-- The parts of a response as numbers: the flag bits of rule R16, the codes of rule R125, and rule R12 for what an
error carries. -/
def Obligations.ResponsePortNumbers : Prop :=
  (∀ f : Flags,
    (flagBits f).getLsbD 0 = f.zMismatch ∧ (flagBits f).getLsbD 1 = f.rsvdNonzero ∧
    (flagBits f).getLsbD 2 = f.nullNonzeroZ ∧ (flagBits f).getLsbD 3 = f.stop ∧
    (flagBits f).getLsbD 4 = f.uninit ∧ (flagBits f).getLsbD 5 = f.secondHalf ∧
    (flagBits f).getLsbD 6 = f.outOfRange ∧ (flagBits f).getLsbD 7 = f.baseMisaligned) ∧
  (∀ e : Err, responseStatus (.error e) = 1 ∧ responseFlags (.error e) = 0 ∧ responseResult (.error e) = none ∧
    responseErr (.error e) = some (errCode e)) ∧
  (∀ (f : Flags) (v : Result), responseStatus (.ok f v) = 0 ∧ responseFlags (.ok f v) = flagBits f ∧
    responseResult (.ok f v) = some v ∧ responseErr (.ok f v) = none) ∧
  (∀ n a op, errCode (.fieldOverflow n) = 1 ∧ errInfo (.fieldOverflow n) = n ∧
    errCode (.misalignedAddress a) = 2 ∧ errInfo (.misalignedAddress a) = a ∧
    errCode (.illegalOp op) = 3 ∧ (errInfo (.illegalOp op)).toNat = op.toNat)

/-! ## Byte order -/

/-- Header words and quadlets as bytes, lowest address first, in each of the two orders (section Byte order). -/
def Obligations.WordsAreStoredInTheirByteOrder : Prop :=
  ∀ (cfg : Config) (v : Word),
    (cfg.hdrOrder = .littleEndian → (quadBytes (hdr32 cfg v)).map BitVec.toNat =
      [v.toNat % 256, v.toNat / 2 ^ 8 % 256, v.toNat / 2 ^ 16 % 256, v.toNat / 2 ^ 24]) ∧
    (cfg.hdrOrder = .bigEndian → (quadBytes (hdr32 cfg v)).map BitVec.toNat =
      [v.toNat / 2 ^ 24, v.toNat / 2 ^ 16 % 256, v.toNat / 2 ^ 8 % 256, v.toNat % 256]) ∧
    (cfg.immOrder = .bigEndian → (quadBytes (imm32 cfg v)).map BitVec.toNat =
      [v.toNat / 2 ^ 24, v.toNat / 2 ^ 16 % 256, v.toNat / 2 ^ 8 % 256, v.toNat % 256]) ∧
    (cfg.immOrder = .littleEndian → (quadBytes (imm32 cfg v)).map BitVec.toNat =
      [v.toNat % 256, v.toNat / 2 ^ 8 % 256, v.toNat / 2 ^ 16 % 256, v.toNat / 2 ^ 24]) ∧
    unhdr32 cfg (hdr32 cfg v) = v ∧ unimm32 cfg (imm32 cfg v) = v

/-! ## Control word operations -/

/-- Rule R60: the selector, the packed word on a count that fits, the error on one that does not. -/
def Obligations.CtlEncPacksTheControlWord : Prop :=
  ∀ (cmd : BitVec 4) (s : BitVec 1) (key : BitVec 3) (i b w : BitVec 2) (reqCount : Word) (st : State),
    (∀ p : Ports, decode st.cfg (.request 0x00 p) = .ok (.ctlEnc p.cmd p.s p.key p.i p.b p.w p.reqCount)) ∧
    (reqCount.toNat ≤ 0xFFFF →
      ∃ word n, exec (.ctlEnc cmd s key i b w reqCount) st =
          .next { st with response := some (.ok .none (.word word)) } ∧
        IsControlWord word cmd s key i b w n ∧ n.toNat = reqCount.toNat) ∧
    (0xFFFF < reqCount.toNat →
      exec (.ctlEnc cmd s key i b w reqCount) st =
        .next { st with response := some (.error (.fieldOverflow reqCount)) })

/-- Rule R61: the selector, the seven fields by their places in the word, and the flag on bits 23:22.  (Of `rsv`, which the
response carries beside the fields, `Obligations.ReservedBitsAreReturned` speaks.) -/
def Obligations.CtlDecReadsTheFields : Prop :=
  ∀ (word : Word) (st : State),
    (∀ p : Ports, decode st.cfg (.request 0x01 p) = .ok (.ctlDec p.word)) ∧
    ∃ (f : Fields) (rsv : BitVec 2),
      exec (.ctlDec word) st =
        .next { st with response := some (.ok { rsvdNonzero := decide (word.toNat / 2 ^ 22 % 4 ≠ 0) }
          (.fields f rsv)) } ∧
      f.cmd.toNat = word.toNat / 2 ^ 28 ∧ f.s.toNat = word.toNat / 2 ^ 27 % 2 ∧
      f.key.toNat = word.toNat / 2 ^ 24 % 8 ∧ f.i.toNat = word.toNat / 2 ^ 20 % 4 ∧
      f.b.toNat = word.toNat / 2 ^ 18 % 4 ∧ f.w.toNat = word.toNat / 2 ^ 16 % 4 ∧
      f.reqCount.toNat = word.toNat % 2 ^ 16

/-- Item U1: `CTL.DEC` and `DESC.DEC` return the reserved bits 23:22 as `rsv`, flag them exactly when they are not 0, and
`CTL.DEC` ignores them otherwise.  That U1 is followed here beside rule R62, which keeps them out of `Fields`, is the
model's reading (assumption log entry 10). -/
def Obligations.ReservedBitsAreReturned : Prop :=
  (∀ (word : Word) (st : State),
    ∃ fl f rsv, exec (.ctlDec word) st = .next { st with response := some (.ok fl (.fields f rsv)) } ∧
      rsv.toNat = word.toNat / 2 ^ 22 % 4 ∧ (fl.rsvdNonzero = true ↔ rsv ≠ 0) ∧
      exec (.ctlDec (word &&& 0xFF3FFFFF)) st = .next { st with response := some (.ok .none (.fields f 0)) }) ∧
  (∀ (slot : Bytes16) (prevValid : BitVec 1) (prev : Bytes16) (st : State),
    ∃ fl kind f rsv size w1 w2 w3, exec (.descDec slot prevValid prev) st =
        .next { st with response := some (.ok fl (.descriptor kind f rsv size w1 w2 w3)) } ∧
      rsv.toNat = (unhdr32 st.cfg slot.w0).toNat / 2 ^ 22 % 4 ∧ (fl.rsvdNonzero = true ↔ rsv ≠ 0))

/-- The round-trip law in both directions (section The round-trip law; the second direction is the spec's own
inference); the `rsv` of the response, 0 here, is by the model's reading (assumption log entry 10). -/
def Obligations.ControlWordRoundTrips : Prop :=
  (∀ (cmd : BitVec 4) (s : BitVec 1) (key : BitVec 3) (i b w : BitVec 2) (reqCount : Word) (st : State),
    reqCount.toNat ≤ 0xFFFF →
    ∃ word, exec (.ctlEnc cmd s key i b w reqCount) st = .next { st with response := some (.ok .none (.word word)) } ∧
      exec (.ctlDec word) st = .next { st with response := some (.ok .none
        (.fields ⟨cmd, s, key, i, b, w, reqCount.extractLsb' 0 16⟩ 0)) }) ∧
  (∀ (word : Word) (st : State),
    ∃ fl f rsv, exec (.ctlDec word) st = .next { st with response := some (.ok fl (.fields f rsv)) } ∧
      exec (.ctlEnc f.cmd f.s f.key f.i f.b f.w (f.reqCount.setWidth 32)) st =
        .next { st with response := some (.ok .none (.word (word &&& 0xFF3FFFFF))) } ∧
      (word &&& 0xFF3FFFFF = word ↔ word.extractLsb' 22 2 = 0))

/-! ## Pointer operations -/

/-- Rule R70: the selector and the packed word, total, with no alignment error. -/
def Obligations.PtrPackMasksBothHalves : Prop :=
  ∀ (addr z : Word) (st : State),
    (∀ p : Ports, decode st.cfg (.request 0x02 p) = .ok (.ptrPack p.addr p.z)) ∧
    ∃ word, exec (.ptrPack addr z) st = .next { st with response := some (.ok .none (.word word)) } ∧
      word = (addr &&& 0xFFFFFFF0) ||| (z &&& 0x0000000F) ∧ IsPointerWord word addr z

/-- The halves of a pointer word (section PTR.UNPACK, an inference of the spec from rule R70). -/
def Obligations.PtrUnpackSplitsThePointer : Prop :=
  ∀ (word : Word) (st : State),
    ∃ addr z, exec (.ptrUnpack word) st = .next { st with response := some (.ok .none (.pointer addr z)) } ∧
      addr.toNat = word.toNat / 16 * 16 ∧ z.toNat = word.toNat % 16

/-- The pack laws and the round trips (sections PTR.PACK and PTR.UNPACK, inferences of the spec from rule R70). -/
def Obligations.PointerPackingRoundTrips : Prop :=
  (∀ (addr z : Word) (st : State),
    ∃ word, exec (.ptrPack addr z) st = .next { st with response := some (.ok .none (.word word)) } ∧
      word &&& 0xF = z &&& 0xF ∧ word &&& 0xFFFFFFF0 = addr &&& 0xFFFFFFF0 ∧
      exec (.ptrUnpack word) st = .next { st with response := some (.ok .none
        (.pointer (addr &&& 0xFFFFFFF0) (z.extractLsb' 0 4))) }) ∧
  (∀ (word : Word) (st : State),
    ∃ addr z, exec (.ptrUnpack word) st = .next { st with response := some (.ok .none (.pointer addr z)) } ∧
      exec (.ptrPack addr (z.setWidth 32)) st = .next { st with response := some (.ok .none (.word word)) })

/-- Rule R74: the selector, both halves, and the flag exactly when Z, on 32 bits, differs from `trueZ`. -/
def Obligations.PtrCheckFlagsAWrongZ : Prop :=
  ∀ (word trueZ : Word) (st : State),
    (∀ p : Ports, decode st.cfg (.request 0x04 p) = .ok (.ptrCheck p.word p.trueZ)) ∧
    ∃ addr z,
      exec (.ptrCheck word trueZ) st = .next { st with response := some (.ok
        { zMismatch := decide (word.toNat % 16 ≠ trueZ.toNat) } (.pointer addr z)) } ∧
      addr.toNat = word.toNat / 16 * 16 ∧ z.toNat = word.toNat % 16

/-- Rule R75: the selector and the three classes with their flags. -/
def Obligations.PtrClassTellsStopNullAndValid : Prop :=
  ∀ (word : Word) (st : State),
    (∀ p : Ports, decode st.cfg (.request 0x05 p) = .ok (.ptrClass p.word)) ∧
    exec (.ptrClass word) st = .next { st with response := some (
       if word.toNat % 16 = 0 then .ok { stop := true } (.ptrClass .stop)
       else if word.toNat / 16 = 0 then .ok { nullNonzeroZ := true } (.ptrClass .nullNonzeroZ)
       else .ok .none (.ptrClass .valid)) }

/-- Rule R76: the selector and the ceiling, on naturals, not masked. -/
def Obligations.ZvalIsTheCeiling : Prop :=
  ∀ (totalBytes : Word) (st : State),
    (∀ p : Ports, decode st.cfg (.request 0x06 p) = .ok (.zval p.totalBytes)) ∧
    ∃ n, exec (.zval totalBytes) st = .next { st with response := some (.ok .none (.zValue n)) } ∧
      n.toNat = (totalBytes.toNat + 15) / 16

/-- Rule R77: the selector and the three outcomes, on naturals. -/
def Obligations.IdxResolveIndexesOrFlags : Prop :=
  ∀ (commandPtr baseAddress : Word) (st : State),
    (∀ p : Ports, decode st.cfg (.request 0x07 p) = .ok (.idxResolve p.commandPtr p.baseAddress)) ∧
    (commandPtr.toNat / 16 * 16 < baseAddress.toNat →
      exec (.idxResolve commandPtr baseAddress) st =
        .next { st with response := some (.ok { outOfRange := true } (.index none)) }) ∧
    (baseAddress.toNat ≤ commandPtr.toNat / 16 * 16 →
      (commandPtr.toNat / 16 * 16 - baseAddress.toNat) % 16 ≠ 0 →
      exec (.idxResolve commandPtr baseAddress) st =
        .next { st with response := some (.ok { baseMisaligned := true } (.index none)) }) ∧
    (baseAddress.toNat ≤ commandPtr.toNat / 16 * 16 →
      (commandPtr.toNat / 16 * 16 - baseAddress.toNat) % 16 = 0 →
      ∃ n, exec (.idxResolve commandPtr baseAddress) st =
          .next { st with response := some (.ok .none (.index (some n))) } ∧
        n.toNat = (commandPtr.toNat / 16 * 16 - baseAddress.toNat) / 16)

/-- A pointer to slot `n` of an aligned base, whatever its Z, resolves to `n` (sections Address space and IDX.RESOLVE);
an address past `2^32` is no address. -/
def Obligations.IdxResolveFindsTheSlot : Prop :=
  ∀ (base : Word) (n : Nat) (z : Word) (st : State), Aligned base → slotAddress base n < 2 ^ 32 →
    ∃ word, exec (.ptrPack (BitVec.ofNat 32 (slotAddress base n)) z) st =
        .next { st with response := some (.ok .none (.word word)) } ∧
      exec (.idxResolve word base) st =
        .next { st with response := some (.ok .none (.index (some (BitVec.ofNat 32 n)))) }

/-- A Z above 15 given to `ENC.OLS` is cut without notice and the check against the true Z finds it (section Hazards
software must respect, an inference of the spec): an `OutputLastSkip` to a block of `ptrZ` slots succeeds with no flag, and
its pointer word fails `PTR.CHECK` against `ptrZ`.  Where a configuration gives the pointer the word of the data address or
of the status word, that the pointer stands there is the model's choice (assumption log entry 13). -/
def Obligations.TruncatedZOfEncOlsIsFoundByCheck : Prop :=
  ∀ (ptrAddr ptrZ : Word) (s : BitVec 1) (i w : BitVec 2) (st : State), Aligned ptrAddr → 16 ≤ ptrZ.toNat →
    ∃ d, exec (.encOls ptrAddr ptrZ s i w) st = .next { st with response := some (.ok .none (.bytes16 d)) } ∧
      ∃ word, IsPointerWord word ptrAddr ptrZ ∧
        wordAt st.cfg.wBranch (unhdr32 st.cfg d.w1) (unhdr32 st.cfg d.w2) (unhdr32 st.cfg d.w3) = word ∧
        ∃ z, exec (.ptrCheck word ptrZ) st =
          .next { st with response := some (.ok { zMismatch := true } (.pointer ptrAddr z)) }

/-! ## Descriptor encode operations -/

/-- Rule R86: the selector, the bytes, and the errors in order. -/
def Obligations.EncSvEncodesAStoreValue : Prop :=
  ∀ (value : BitVec 16) (dataAddress ptrAddr ptrZ : Word) (s : BitVec 1) (i w : BitVec 2) (st : State),
    st.cfg.placesDistinct = true →
    (∀ p : Ports, decode st.cfg (.request 0x08 p) =
      .ok (.encSv p.value p.dataAddress p.ptrAddr p.ptrZ p.s p.i p.w)) ∧
    (¬ Aligned ptrAddr → exec (.encSv value dataAddress ptrAddr ptrZ s i w) st =
      .next { st with response := some (.error (.misalignedAddress ptrAddr)) }) ∧
    (Aligned ptrAddr → ¬ DataAllowed st.cfg dataAddress → exec (.encSv value dataAddress ptrAddr ptrZ s i w) st =
      .next { st with response := some (.error (.misalignedAddress dataAddress)) }) ∧
    (Aligned ptrAddr → DataAllowed st.cfg dataAddress →
      ∃ d w0 w1 w2 w3 ptr, exec (.encSv value dataAddress ptrAddr ptrZ s i w) st =
          .next { st with response := some (.ok .none (.bytes16 d)) } ∧
        HoldsWords st.cfg d w0 w1 w2 w3 ∧
        IsControlWord w0 st.cfg.cmdStoreValue s st.cfg.keyStore i st.cfg.bNever w value ∧
        At st.cfg.wData w1 w2 w3 dataAddress ∧
        At st.cfg.wBranch w1 w2 w3 ptr ∧ IsPointerWord ptr ptrAddr ptrZ ∧
        At st.cfg.wStatus w1 w2 w3 0)

/-- Rule R87: the selector, the bytes, the errors in order, and the corner case that under the default parameters count 0,
address 0 and controls 0 give 16 zero bytes, which decode as an OutputMore. -/
def Obligations.EncOmEncodesAnOutputMore : Prop :=
  ∀ (reqCount dataAddress : Word) (s : BitVec 1) (i w : BitVec 2) (st : State),
    st.cfg.placesDistinct = true →
    (∀ p : Ports, decode st.cfg (.request 0x09 p) = .ok (.encOm p.reqCount p.dataAddress p.s p.i p.w)) ∧
    (0xFFFF < reqCount.toNat → exec (.encOm reqCount dataAddress s i w) st =
      .next { st with response := some (.error (.fieldOverflow reqCount)) }) ∧
    (reqCount.toNat ≤ 0xFFFF → ¬ DataAllowed st.cfg dataAddress → exec (.encOm reqCount dataAddress s i w) st =
      .next { st with response := some (.error (.misalignedAddress dataAddress)) }) ∧
    (reqCount.toNat ≤ 0xFFFF → DataAllowed st.cfg dataAddress →
      ∃ d w0 w1 w2 w3 n, exec (.encOm reqCount dataAddress s i w) st =
          .next { st with response := some (.ok .none (.bytes16 d)) } ∧
        HoldsWords st.cfg d w0 w1 w2 w3 ∧
        IsControlWord w0 st.cfg.cmdOutputMore s st.cfg.keyStandard i st.cfg.bNever w n ∧ n.toNat = reqCount.toNat ∧
        At st.cfg.wData w1 w2 w3 dataAddress ∧ At st.cfg.wBranch w1 w2 w3 0 ∧ At st.cfg.wStatus w1 w2 w3 0) ∧
    (st.cfg = Config.default →
      exec (.encOm 0 0 0 0 0) st = .next { st with response := some (.ok .none (.bytes16 .zeros)) } ∧
      ∃ fl f rsv size w1 w2 w3, exec (.descDec .zeros 0 .zeros) st =
        .next { st with response := some (.ok fl (.descriptor .outputMore f rsv size w1 w2 w3)) })

/-- Rule R88: the selector, the bytes, and the error. -/
def Obligations.EncOmiEncodesAnOutputMoreImmediate : Prop :=
  ∀ (q0 q1 ptrAddr ptrZ : Word) (s : BitVec 1) (i w : BitVec 2) (st : State),
    (∀ p : Ports, decode st.cfg (.request 0x0A p) = .ok (.encOmi p.q0 p.q1 p.ptrAddr p.ptrZ p.s p.i p.w)) ∧
    (¬ Aligned ptrAddr → exec (.encOmi q0 q1 ptrAddr ptrZ s i w) st =
      .next { st with response := some (.error (.misalignedAddress ptrAddr)) }) ∧
    (Aligned ptrAddr →
      ∃ d w0 w1 w2 w3 ptr, exec (.encOmi q0 q1 ptrAddr ptrZ s i w) st =
          .next { st with response := some (.ok .none (.bytes32 d)) } ∧
        HoldsWords st.cfg d.first w0 w1 w2 w3 ∧
        IsControlWord w0 st.cfg.cmdOutputMore s 2 i st.cfg.bNever w st.cfg.immReq ∧
        IsPointerWord ptr ptrAddr ptrZ ∧
        (∀ p : WordPlace, At p w1 w2 w3 (if p = st.cfg.wImmPtr then ptr else 0)) ∧
        d.second = ⟨imm32 st.cfg q0, imm32 st.cfg q1, .zeros, .zeros⟩)

/-- Rule R89: the selector, the bytes, the errors in order, and the corner case of count 0: the bytes of `ENC.OLS` when the
data address is 0 too, and an OutputLastSkip to `DESC.DEC` (under a configuration that tells the variants apart). -/
def Obligations.EncOlEncodesAnOutputLast : Prop :=
  ∀ (reqCount dataAddress ptrAddr ptrZ : Word) (s : BitVec 1) (i w : BitVec 2) (st : State),
    st.cfg.placesDistinct = true →
    (∀ p : Ports, decode st.cfg (.request 0x0B p) =
      .ok (.encOl p.reqCount p.dataAddress p.ptrAddr p.ptrZ p.s p.i p.w)) ∧
    (0xFFFF < reqCount.toNat → exec (.encOl reqCount dataAddress ptrAddr ptrZ s i w) st =
      .next { st with response := some (.error (.fieldOverflow reqCount)) }) ∧
    (reqCount.toNat ≤ 0xFFFF → ¬ Aligned ptrAddr → exec (.encOl reqCount dataAddress ptrAddr ptrZ s i w) st =
      .next { st with response := some (.error (.misalignedAddress ptrAddr)) }) ∧
    (reqCount.toNat ≤ 0xFFFF → Aligned ptrAddr → ¬ DataAllowed st.cfg dataAddress →
      exec (.encOl reqCount dataAddress ptrAddr ptrZ s i w) st =
        .next { st with response := some (.error (.misalignedAddress dataAddress)) }) ∧
    (reqCount.toNat ≤ 0xFFFF → Aligned ptrAddr → DataAllowed st.cfg dataAddress →
      ∃ d w0 w1 w2 w3 ptr n, exec (.encOl reqCount dataAddress ptrAddr ptrZ s i w) st =
          .next { st with response := some (.ok .none (.bytes16 d)) } ∧
        HoldsWords st.cfg d w0 w1 w2 w3 ∧
        IsControlWord w0 1 s st.cfg.keyStandard i st.cfg.bAlways w n ∧ n.toNat = reqCount.toNat ∧
        At st.cfg.wData w1 w2 w3 dataAddress ∧
        At st.cfg.wBranch w1 w2 w3 ptr ∧ IsPointerWord ptr ptrAddr ptrZ ∧
        At st.cfg.wStatus w1 w2 w3 0) ∧
    exec (.encOl 0 0 ptrAddr ptrZ s i w) st = exec (.encOls ptrAddr ptrZ s i w) st ∧
    (∀ (d prev : Bytes16) (prevValid : BitVec 1), st.cfg.wellFormed = true →
      exec (.encOl 0 dataAddress ptrAddr ptrZ s i w) st =
        .next { st with response := some (.ok .none (.bytes16 d)) } →
      ∃ fl f rsv size w1 w2 w3, exec (.descDec d prevValid prev) st =
        .next { st with response := some (.ok fl (.descriptor .outputLastSkip f rsv size w1 w2 w3)) })

/-- Rule R90: the selector, the bytes, and the error. -/
def Obligations.EncOliEncodesAnOutputLastImmediate : Prop :=
  ∀ (q0 q1 ptrAddr ptrZ : Word) (s : BitVec 1) (i w : BitVec 2) (st : State),
    (∀ p : Ports, decode st.cfg (.request 0x0C p) = .ok (.encOli p.q0 p.q1 p.ptrAddr p.ptrZ p.s p.i p.w)) ∧
    (¬ Aligned ptrAddr → exec (.encOli q0 q1 ptrAddr ptrZ s i w) st =
      .next { st with response := some (.error (.misalignedAddress ptrAddr)) }) ∧
    (Aligned ptrAddr →
      ∃ d w0 w1 w2 w3 ptr, exec (.encOli q0 q1 ptrAddr ptrZ s i w) st =
          .next { st with response := some (.ok .none (.bytes32 d)) } ∧
        HoldsWords st.cfg d.first w0 w1 w2 w3 ∧
        IsControlWord w0 1 s 2 i st.cfg.bAlways w st.cfg.immReq ∧
        IsPointerWord ptr ptrAddr ptrZ ∧
        (∀ p : WordPlace, At p w1 w2 w3 (if p = st.cfg.wImmPtr then ptr else 0)) ∧
        d.second = ⟨imm32 st.cfg q0, imm32 st.cfg q1, .zeros, .zeros⟩)

/-- Rule R92: the selector, the bytes, and the error (the corner case that the rule infers from rule R89 is
`Obligations.OutputLastOfNothingIsASkip`). -/
def Obligations.EncOlsEncodesAnOutputLastSkip : Prop :=
  ∀ (ptrAddr ptrZ : Word) (s : BitVec 1) (i w : BitVec 2) (st : State),
    st.cfg.placesDistinct = true →
    (∀ p : Ports, decode st.cfg (.request 0x0D p) = .ok (.encOls p.ptrAddr p.ptrZ p.s p.i p.w)) ∧
    (¬ Aligned ptrAddr → exec (.encOls ptrAddr ptrZ s i w) st =
      .next { st with response := some (.error (.misalignedAddress ptrAddr)) }) ∧
    (Aligned ptrAddr →
      ∃ d w0 w1 w2 w3 ptr, exec (.encOls ptrAddr ptrZ s i w) st =
          .next { st with response := some (.ok .none (.bytes16 d)) } ∧
        HoldsWords st.cfg d w0 w1 w2 w3 ∧
        IsControlWord w0 1 s st.cfg.keyStandard i st.cfg.bAlways w 0 ∧
        At st.cfg.wData w1 w2 w3 0 ∧
        At st.cfg.wBranch w1 w2 w3 ptr ∧ IsPointerWord ptr ptrAddr ptrZ ∧
        At st.cfg.wStatus w1 w2 w3 0)

/-- `ENC.OLS` is `ENC.OL` with count and data address 0, in every state and for every target, errors included (section
ENC.OLS, an inference of the spec from rules R89 and R92). -/
def Obligations.OutputLastOfNothingIsASkip : Prop :=
  ∀ (ptrAddr ptrZ : Word) (s : BitVec 1) (i w : BitVec 2) (st : State),
    exec (.encOls ptrAddr ptrZ s i w) st = exec (.encOl 0 0 ptrAddr ptrZ s i w) st

/-! ## Descriptor decode -/

/-- Rule R100: the selector, the words, the fields as `CTL.DEC` gives them, the size, the kind, and each of the five
flags by its own condition. -/
def Obligations.DescDecReportsTheSlot : Prop :=
  ∀ (slot : Bytes16) (prevValid : BitVec 1) (prev : Bytes16) (st : State),
    (∀ p : Ports, decode st.cfg (.request 0x0E p) = .ok (.descDec p.slot p.prevValid p.prev)) ∧
    ∃ fl kind f rsv size w1 w2 w3,
      exec (.descDec slot prevValid prev) st =
        .next { st with response := some (.ok fl (.descriptor kind f rsv size w1 w2 w3)) } ∧
      w1 = unhdr32 st.cfg slot.w1 ∧ w2 = unhdr32 st.cfg slot.w2 ∧ w3 = unhdr32 st.cfg slot.w3 ∧
      exec (.ctlDec (unhdr32 st.cfg slot.w0)) st =
        .next { st with response := some (.ok { rsvdNonzero := fl.rsvdNonzero } (.fields f rsv)) } ∧
      size = (if f.key = 2 then 32 else 16) ∧
      (fl.secondHalf = true ↔ prevValid = 1 ∧ (unhdr32 st.cfg prev.w0).extractLsb' 24 3 = 2) ∧
      (fl.uninit = true ↔ AllFill slot) ∧
      kind = (if fl.uninit then .unknown else selectKind st.cfg f) ∧
      (match pointerPlace st.cfg kind with
        | some p =>
          (fl.stop = true ↔ (wordAt p w1 w2 w3).toNat % 16 = 0) ∧
          (fl.nullNonzeroZ = true ↔ (wordAt p w1 w2 w3).toNat % 16 ≠ 0 ∧ (wordAt p w1 w2 w3).toNat / 16 = 0)
        | none => fl.stop = false ∧ fl.nullNonzeroZ = false) ∧
      fl.zMismatch = false ∧ fl.outOfRange = false ∧ fl.baseMisaligned = false

/-- The selection table (section DESC.DEC, which the spec decides in D17 and infers from the variants' code points), row
by row, on what `DESC.DEC` answers for a slot that is not the fill pattern, under a configuration in which the five pairs
differ.  No row depends on `s`, `i`, `b`, `w` or the reserved bits. -/
def Obligations.SelectionFollowsTheTable : Prop :=
  ∀ (slot : Bytes16) (prevValid : BitVec 1) (prev : Bytes16) (st : State),
    st.cfg.pairsDistinct = true → ¬ AllFill slot →
    ∃ fl kind f rsv size w1 w2 w3, exec (.descDec slot prevValid prev) st =
        .next { st with response := some (.ok fl (.descriptor kind f rsv size w1 w2 w3)) } ∧
      (kind = .storeValue ↔ f.cmd = st.cfg.cmdStoreValue ∧ f.key = st.cfg.keyStore) ∧
      (kind = .outputMore ↔ f.cmd = st.cfg.cmdOutputMore ∧ f.key = st.cfg.keyStandard) ∧
      (kind = .outputMoreImmediate ↔ f.cmd = st.cfg.cmdOutputMore ∧ f.key = 2) ∧
      (kind = .outputLast ↔ f.cmd = 1 ∧ f.key = st.cfg.keyStandard ∧ f.reqCount ≠ 0) ∧
      (kind = .outputLastSkip ↔ f.cmd = 1 ∧ f.key = st.cfg.keyStandard ∧ f.reqCount = 0) ∧
      (kind = .outputLastImmediate ↔ f.cmd = 1 ∧ f.key = 2) ∧
      (kind = .unknown ↔ (f.cmd, f.key) ∉ [(st.cfg.cmdStoreValue, st.cfg.keyStore),
        (st.cfg.cmdOutputMore, st.cfg.keyStandard), (st.cfg.cmdOutputMore, (2 : BitVec 3)),
        ((1 : BitVec 4), st.cfg.keyStandard), ((1 : BitVec 4), (2 : BitVec 3))])

/-- The selection as match and mask on `W0`, under the default code points (section Selecting the variant from W0). -/
def Obligations.SelectionByMaskAndMatch : Prop :=
  ∀ word : Word,
    selectKind Config.default (controlFields word) =
      (if word &&& 0xF700FFFF = 0x10000000 then .outputLastSkip
       else if word &&& 0xF7000000 = 0x10000000 then .outputLast
       else if word &&& 0xF7000000 = 0x00000000 then .outputMore
       else if word &&& 0xF7000000 = 0x02000000 then .outputMoreImmediate
       else if word &&& 0xF7000000 = 0x12000000 then .outputLastImmediate
       else if word &&& 0xF7000000 = 0x86000000 then .storeValue
       else .unknown)

/-- Of the 128 `(cmd, key)` pairs, 5 name a variant under the default code points and 123 are `Unknown`
(section Reserved bits, reserved words, unknown encodings). -/
def Obligations.FivePairsNameAVariant : Prop :=
  ((List.range 16).flatMap fun c => (List.range 8).filter fun k =>
    selectKind Config.default ⟨BitVec.ofNat 4 c, 0, BitVec.ofNat 3 k, 0, 0, 0, 1⟩ != .unknown).length = 5 ∧
  ∀ f : Fields, selectKind Config.default f = .unknown ↔
    (f.cmd, f.key) ∉ [((8 : BitVec 4), (6 : BitVec 3)), (0, 0), (0, 2), (1, 0), (1, 2)]

/-- Which word of a slot is its pointer, by kind (the last column of the table of section DESC.DEC, which the spec
infers from the layouts). -/
def Obligations.PointerWordByKind : Prop :=
  ∀ cfg : Config,
    pointerPlace cfg .storeValue = some cfg.wBranch ∧ pointerPlace cfg .outputMore = none ∧
    pointerPlace cfg .outputMoreImmediate = some cfg.wImmPtr ∧ pointerPlace cfg .outputLast = some cfg.wBranch ∧
    pointerPlace cfg .outputLastImmediate = some cfg.wImmPtr ∧
    pointerPlace cfg .outputLastSkip = some cfg.wBranch ∧ pointerPlace cfg .unknown = none

/-- Rule R101: a slot of 16 fill bytes is `Unknown` and flagged, whatever its control word would select, and its fields
and words are still returned. -/
def Obligations.FillPatternIsUninitialised : Prop :=
  ∀ (slot : Bytes16) (prevValid : BitVec 1) (prev : Bytes16) (st : State),
    (AllFill slot →
      ∃ fl rsv, exec (.descDec slot prevValid prev) st = .next { st with response := some (.ok fl (.descriptor .unknown
          ⟨13, 1, 6, 1, 3, 2, 0xDEDE⟩ rsv 16 0xDEDEDEDE 0xDEDEDEDE 0xDEDEDEDE)) } ∧
        fl.uninit = true ∧ fl.rsvdNonzero = true ∧ fl.stop = false ∧ fl.nullNonzeroZ = false) ∧
    (¬ AllFill slot →
      ∃ fl v, exec (.descDec slot prevValid prev) st = .next { st with response := some (.ok fl v) } ∧
        fl.uninit = false)

/-- Reading back a 16-byte descriptor an encoder produced (section DESC.DEC, laws, an inference of the spec): the variant's
kind, the fields as encoded, no flag but those its pointer gives; `rsv` is 0 (assumption log entry 10). -/
def Obligations.DescDecReadsBackStandardDescriptors : Prop :=
  ∀ (st : State) (value : BitVec 16) (reqCount dataAddress ptrAddr ptrZ : Word) (s : BitVec 1) (i w : BitVec 2)
    (d : Bytes16) (prev : Bytes16), st.cfg.wellFormed = true →
    (exec (.encSv value dataAddress ptrAddr ptrZ s i w) st = .next { st with response := some (.ok .none (.bytes16 d)) } →
      ∃ w1 w2 w3, exec (.descDec d 0 prev) st = .next { st with response := some (.ok
        { stop := decide (ptrZ.toNat % 16 = 0),
          nullNonzeroZ := decide (ptrZ.toNat % 16 ≠ 0 ∧ ptrAddr.toNat = 0) }
        (.descriptor .storeValue ⟨st.cfg.cmdStoreValue, s, st.cfg.keyStore, i, st.cfg.bNever, w, value⟩
          0 16 w1 w2 w3)) }) ∧
    (exec (.encOm reqCount dataAddress s i w) st = .next { st with response := some (.ok .none (.bytes16 d)) } →
      ∃ w1 w2 w3, exec (.descDec d 0 prev) st = .next { st with response := some (.ok .none
        (.descriptor .outputMore
          ⟨st.cfg.cmdOutputMore, s, st.cfg.keyStandard, i, st.cfg.bNever, w, reqCount.extractLsb' 0 16⟩
          0 16 w1 w2 w3)) }) ∧
    (exec (.encOl reqCount dataAddress ptrAddr ptrZ s i w) st =
        .next { st with response := some (.ok .none (.bytes16 d)) } →
      ∃ w1 w2 w3, exec (.descDec d 0 prev) st = .next { st with response := some (.ok
        { stop := decide (ptrZ.toNat % 16 = 0),
          nullNonzeroZ := decide (ptrZ.toNat % 16 ≠ 0 ∧ ptrAddr.toNat = 0) }
        (.descriptor (if reqCount = 0 then .outputLastSkip else .outputLast)
          ⟨1, s, st.cfg.keyStandard, i, st.cfg.bAlways, w, reqCount.extractLsb' 0 16⟩ 0 16 w1 w2 w3)) }) ∧
    (exec (.encOls ptrAddr ptrZ s i w) st = .next { st with response := some (.ok .none (.bytes16 d)) } →
      ∃ w1 w2 w3, exec (.descDec d 0 prev) st = .next { st with response := some (.ok
        { stop := decide (ptrZ.toNat % 16 = 0),
          nullNonzeroZ := decide (ptrZ.toNat % 16 ≠ 0 ∧ ptrAddr.toNat = 0) }
        (.descriptor .outputLastSkip ⟨1, s, st.cfg.keyStandard, i, st.cfg.bAlways, w, 0⟩ 0 16 w1 w2 w3)) })

/-- Reading back a 32-byte descriptor an encoder produced (same section): its first slot gives kind, fields, size 32 and
the pointer's flags, and `rsv` 0 (assumption log entry 10); its second slot, read with the first before it, is flagged as
a second half. -/
def Obligations.DescDecReadsBackImmediateDescriptors : Prop :=
  ∀ (st : State) (q0 q1 ptrAddr ptrZ : Word) (s : BitVec 1) (i w : BitVec 2) (d : Bytes32) (prev : Bytes16),
    st.cfg.wellFormed = true →
    (exec (.encOmi q0 q1 ptrAddr ptrZ s i w) st = .next { st with response := some (.ok .none (.bytes32 d)) } →
      (∃ w1 w2 w3, exec (.descDec d.first 0 prev) st = .next { st with response := some (.ok
        { stop := decide (ptrZ.toNat % 16 = 0),
          nullNonzeroZ := decide (ptrZ.toNat % 16 ≠ 0 ∧ ptrAddr.toNat = 0) }
        (.descriptor .outputMoreImmediate
          ⟨st.cfg.cmdOutputMore, s, 2, i, st.cfg.bNever, w, st.cfg.immReq⟩ 0 32 w1 w2 w3)) }) ∧
      ∃ fl v, exec (.descDec d.second 1 d.first) st = .next { st with response := some (.ok fl v) } ∧
        fl.secondHalf = true) ∧
    (exec (.encOli q0 q1 ptrAddr ptrZ s i w) st = .next { st with response := some (.ok .none (.bytes32 d)) } →
      (∃ w1 w2 w3, exec (.descDec d.first 0 prev) st = .next { st with response := some (.ok
        { stop := decide (ptrZ.toNat % 16 = 0),
          nullNonzeroZ := decide (ptrZ.toNat % 16 ≠ 0 ∧ ptrAddr.toNat = 0) }
        (.descriptor .outputLastImmediate ⟨1, s, 2, i, st.cfg.bAlways, w, st.cfg.immReq⟩ 0 32 w1 w2 w3)) }) ∧
      ∃ fl v, exec (.descDec d.second 1 d.first) st = .next { st with response := some (.ok fl v) } ∧
        fl.secondHalf = true)

/-- All signatures are reported at once, each by its own condition, and none is chosen over another (section How the
Diagnoser uses the decoder, with the readings of the table of section DESC.DEC, inferences of the spec): uninitialised
exactly for 16 fill bytes, and on a terminal kind a deliberate stop and a null branch by its branch pointer. -/
def Obligations.SignaturesAreReportedTogether : Prop :=
  ∀ (slot : Bytes16) (prevValid : BitVec 1) (prev : Bytes16) (st : State),
    ∃ fl kind f rsv size w1 w2 w3 ptr r,
      r = .ok fl (.descriptor kind f rsv size w1 w2 w3) ∧
      exec (.descDec slot prevValid prev) st = .next { st with response := some r } ∧
      At (if kind = .outputLastImmediate then st.cfg.wImmPtr else st.cfg.wBranch) w1 w2 w3 ptr ∧
      (isTerminal kind = true ↔ kind = .outputLast ∨ kind = .outputLastImmediate ∨ kind = .outputLastSkip) ∧
      (Signature.uninitializedDescriptor ∈ signatures r ↔ AllFill slot) ∧
      (Signature.deliberateStop ∈ signatures r ↔ isTerminal kind = true ∧ ptr.toNat % 16 = 0) ∧
      (Signature.nullBranchWithNonzeroZ ∈ signatures r ↔
        isTerminal kind = true ∧ ptr.toNat % 16 ≠ 0 ∧ ptr.toNat / 16 = 0)

/-- Fill patterns decode (section Hazards software must respect, an inference of the spec), under the default code
points: the 0xDE control word has the store key, and a slot of zeros is an OutputMore with no flag; their `rsv` is by the
model's reading (assumption log entry 10). -/
def Obligations.FillPatternsDecode : Prop :=
  ∀ st : State, st.cfg = Config.default →
    exec (.ctlDec 0xDEDEDEDE) st = .next { st with response := some (.ok
      { rsvdNonzero := true } (.fields ⟨13, 1, st.cfg.keyStore, 1, 3, 2, 0xDEDE⟩ 3)) } ∧
    exec (.descDec .zeros 0 .zeros) st = .next { st with response := some (.ok .none
      (.descriptor .outputMore ⟨0, 0, 0, 0, 0, 0, 0⟩ 0 16 0 0 0)) }

/-- A status word written back into a descriptor changes nothing of how the descriptor is read but that word (section State
the source names, a decision of the spec, D21): two slots that differ in the status word alone, and whose control word is
that of a terminal descriptor, are reported alike, whatever precedes them. -/
def Obligations.StatusWriteBackChangesOnlyTheStatusWord : Prop :=
  ∀ (w0 w1 w2 w3 u1 u2 u3 v : Word) (prevValid : BitVec 1) (prev : Bytes16) (st : State),
    st.cfg.wellFormed = true → w0.extractLsb' 28 4 = 1 → w0.extractLsb' 24 3 = st.cfg.keyStandard →
    u1 = (if st.cfg.wStatus = .w1 then v else w1) → u2 = (if st.cfg.wStatus = .w2 then v else w2) →
    u3 = (if st.cfg.wStatus = .w3 then v else w3) →
    ∃ fl kind f rsv size,
      exec (.descDec (encodeSlot st.cfg w0 w1 w2 w3) prevValid prev) st =
        .next { st with response := some (.ok fl (.descriptor kind f rsv size w1 w2 w3)) } ∧
      exec (.descDec (encodeSlot st.cfg w0 u1 u2 u3) prevValid prev) st =
        .next { st with response := some (.ok fl (.descriptor kind f rsv size u1 u2 u3)) } ∧
      (kind = .outputLast ∨ kind = .outputLastSkip)

/-- A pointer with a non-zero Z and a null address given to `ENC.OLS` is encoded with no error and no flag, and its word is
found by `PTR.CLASS` (section Hazards software must respect).  Where a configuration gives the pointer the word of the data
address or of the status word, that the pointer stands there is the model's choice (assumption log entry 13). -/
def Obligations.NullPointerIsFoundAfterwards : Prop :=
  ∀ (ptrZ : Word) (s : BitVec 1) (i w : BitVec 2) (st : State), ptrZ.toNat % 16 ≠ 0 →
    ∃ d word, exec (.encOls 0 ptrZ s i w) st = .next { st with response := some (.ok .none (.bytes16 d)) } ∧
      wordAt st.cfg.wBranch (unhdr32 st.cfg d.w1) (unhdr32 st.cfg d.w2) (unhdr32 st.cfg d.w3) = word ∧
      exec (.ptrClass word) st =
        .next { st with response := some (.ok { nullNonzeroZ := true } (.ptrClass .nullNonzeroZ)) }

/-! ## Status word operations -/

/-- The status word's parts (section STAT.DEC, a decision of the spec, D21), with the halves either way round. -/
def Obligations.StatDecSplitsTheStatusWord : Prop :=
  ∀ (word : Word) (st : State),
    ∃ x t e, exec (.statDec word) st = .next { st with response := some (.ok .none (.status x t e)) } ∧
      x.toNat = (if st.cfg.stXferHi then word.toNat / 2 ^ 16 else word.toNat % 2 ^ 16) ∧
      t.toNat = (if st.cfg.stXferHi then word.toNat % 2 ^ 16 else word.toNat / 2 ^ 16) ∧
      e.toNat = x.toNat % 256

/-- The status word formed from its halves (section STAT.ENC, a decision of the spec, D21). -/
def Obligations.StatEncJoinsTheHalves : Prop :=
  ∀ (x t : BitVec 16) (st : State),
    ∃ word, exec (.statEnc x t) st = .next { st with response := some (.ok .none (.word word)) } ∧
      word.toNat = (if st.cfg.stXferHi then x.toNat * 2 ^ 16 + t.toNat else t.toNat * 2 ^ 16 + x.toNat)

/-- The status word round trips (section Laws and the status-write bit, an inference of the spec). -/
def Obligations.StatusWordRoundTrips : Prop :=
  (∀ (x t : BitVec 16) (st : State),
    ∃ word, exec (.statEnc x t) st = .next { st with response := some (.ok .none (.word word)) } ∧
      exec (.statDec word) st =
        .next { st with response := some (.ok .none (.status x t (x.extractLsb' 0 8))) }) ∧
  (∀ (word : Word) (st : State),
    ∃ x t e, exec (.statDec word) st = .next { st with response := some (.ok .none (.status x t e)) } ∧
      exec (.statEnc x t) st = .next { st with response := some (.ok .none (.word word)) })

/-- Rule R118: the selector and the benign set, whatever the numbers of its three codes. -/
def Obligations.EvtBenignIsTheBenignSet : Prop :=
  ∀ (eventCode : Byte) (st : State),
    (∀ p : Ports, decode st.cfg (.request 0x11 p) = .ok (.evtBenign p.eventCode)) ∧
    ∃ yes, exec (.evtBenign eventCode) st = .next { st with response := some (.ok .none (.benign yes)) } ∧
      (yes = true ↔
        eventCode = st.cfg.evtNoStatus ∨ eventCode = st.cfg.evtAckComplete ∨ eventCode = st.cfg.evtAckPending)

/-! ## Descriptors handed over to be read -/

/-- The three variants of the standard and the store key with a pointer: kind, fields, size, words, and the flags of the
pointer and of the reserved bits.  That a descriptor handed over is read as `DESC.DEC` reads it is the model's choice
(assumption log entry 6), and so is `rsv` in the response (entry 10).  Under a well-formed configuration the kind, the size
and the pointer word are those of the tables of section DESC.DEC, but for an `outputLast` of count 0, which those tables
call an OutputLastSkip and which no decoding gives: it is reported as its constructor says, the model's choice (entry 18).
The model's choice too are the kind, its constructor's, where a configuration gives two variants one pair (entry 23), and the
size 32 where it makes the store or the standard key the immediate key (entry 24). -/
def Obligations.PointerVariantsAreReported : Prop :=
  ∀ (c : Controls) (n : BitVec 16) (w1 w2 w3 : Word) (st : State),
    ∃ ptr, At st.cfg.wBranch w1 w2 w3 ptr ∧
    ∃ fl : Flags,
      fl = { rsvdNonzero := decide (c.rsv.toNat ≠ 0), stop := decide (ptr.toNat % 16 = 0),
             nullNonzeroZ := decide (ptr.toNat % 16 ≠ 0 ∧ ptr.toNat / 16 = 0) } ∧
      exec (.storeValue c n w1 w2 w3) st = .next { st with response := some (.ok fl (.descriptor .storeValue
        ⟨st.cfg.cmdStoreValue, c.s, st.cfg.keyStore, c.i, c.b, c.w, n⟩
        c.rsv (if st.cfg.keyStore = 2 then 32 else 16) w1 w2 w3)) } ∧
      exec (.outputLast c n w1 w2 w3) st = .next { st with response := some (.ok fl (.descriptor .outputLast
        ⟨1, c.s, st.cfg.keyStandard, c.i, c.b, c.w, n⟩
        c.rsv (if st.cfg.keyStandard = 2 then 32 else 16) w1 w2 w3)) } ∧
      exec (.outputLastSkip c w1 w2 w3) st = .next { st with response := some (.ok fl (.descriptor .outputLastSkip
        ⟨1, c.s, st.cfg.keyStandard, c.i, c.b, c.w, 0⟩
        c.rsv (if st.cfg.keyStandard = 2 then 32 else 16) w1 w2 w3)) }

/-- The variant with no pointer: kind, fields, size, words, and the flag of the reserved bits alone.  The model's choices are
that it is read as `DESC.DEC` reads it (assumption log entry 6), `rsv` in the response (entry 10), the kind, its
constructor's, where a configuration gives two variants one pair (entry 23), and the size 32 where it makes the standard key
the immediate key (entry 24). -/
def Obligations.OutputMoreIsReportedWithoutPointerFlags : Prop :=
  ∀ (c : Controls) (n : BitVec 16) (w1 w2 w3 : Word) (st : State),
    exec (.outputMore c n w1 w2 w3) st = .next { st with response := some (.ok
      { rsvdNonzero := decide (c.rsv.toNat ≠ 0) }
      (.descriptor .outputMore ⟨st.cfg.cmdOutputMore, c.s, st.cfg.keyStandard, c.i, c.b, c.w, n⟩
        c.rsv (if st.cfg.keyStandard = 2 then 32 else 16) w1 w2 w3)) }

/-- The two 32-byte variants: size 32 and the flags of the header's one pointer.  The model's choices are that they are read
as `DESC.DEC` reads them (assumption log entries 6 and 7), `rsv` in the response (entry 10), and the kind, the constructor's,
where a configuration gives two variants one pair (entry 23). -/
def Obligations.ImmediateVariantsAreReported : Prop :=
  ∀ (c : Controls) (n : BitVec 16) (w1 w2 w3 q0 q1 : Word) (p0 p1 : Quad) (st : State),
    ∃ ptr, At st.cfg.wImmPtr w1 w2 w3 ptr ∧
    ∃ fl : Flags,
      fl = { rsvdNonzero := decide (c.rsv.toNat ≠ 0), stop := decide (ptr.toNat % 16 = 0),
             nullNonzeroZ := decide (ptr.toNat % 16 ≠ 0 ∧ ptr.toNat / 16 = 0) } ∧
      exec (.outputMoreImmediate c n w1 w2 w3 q0 q1 p0 p1) st =
        .next { st with response := some (.ok fl (.descriptor .outputMoreImmediate
          ⟨st.cfg.cmdOutputMore, c.s, 2, c.i, c.b, c.w, n⟩ c.rsv 32 w1 w2 w3)) } ∧
      exec (.outputLastImmediate c n w1 w2 w3 q0 q1 p0 p1) st =
        .next { st with response := some (.ok fl (.descriptor .outputLastImmediate
          ⟨1, c.s, 2, c.i, c.b, c.w, n⟩ c.rsv 32 w1 w2 w3)) }

/-- A descriptor handed over, of whatever variant or of none, gets the response that a `DESC.DEC` request on its first slot
with no preceding slot gets, under every configuration.  That it is read so is the model's choice (assumption log
entries 6 and 8). -/
def Obligations.DescriptorIsReadAsDescDecReadsIt : Prop :=
  ∀ (s : State) (slot next : Bytes16) (rest : List Input),
    step { s with requests := .descriptor slot next :: rest } =
      step { s with requests := .request 0x0E { slot := slot, prevValid := 0 } :: rest }

/-! ## Sizes -/

/-- Size conservation (section Serialising more than one descriptor, an inference of the spec): the buffer a requester
assembles from any responses is a whole number of slots, as many as `ZVAL` of its length. -/
def Obligations.AssembledBytesAreWholeSlots : Prop :=
  ∀ (rs : List Response) (st : State), (assembled rs).length < 2 ^ 32 →
    ∃ n, exec (.zval (BitVec.ofNat 32 (assembled rs).length)) st =
        .next { st with response := some (.ok .none (.zValue n)) } ∧
      n.toNat * 16 = (assembled rs).length
end

