-- ==== Sys2Proof/Laws/Bits.lean ====
section
/-! SUPPORT. Byte order and bit fields: each reading undoes its writing. -/

namespace Sys2Proof.Laws

open Sys2Proof.Machine

@[simp] theorem unle32_le32 (v : Word) : unle32 (le32 v) = v := by
  unfold unle32 le32
  ext j hj
  interval_cases j <;> simp

@[simp] theorem unbe32_be32 (v : Word) : unbe32 (be32 v) = v := by
  unfold unbe32 be32
  ext j hj
  interval_cases j <;> simp

@[simp] theorem le32_unle32 (q : Quad) : le32 (unle32 q) = q := by
  cases q
  simp only [le32, unle32, Quad.mk.injEq]
  refine ⟨?_, ?_, ?_, ?_⟩ <;> ext j hj <;> interval_cases j <;> simp

@[simp] theorem be32_unbe32 (q : Quad) : be32 (unbe32 q) = q := by
  cases q
  simp only [be32, unbe32, Quad.mk.injEq]
  refine ⟨?_, ?_, ?_, ?_⟩ <;> ext j hj <;> interval_cases j <;> simp

@[simp] theorem loadWord_storeWord (o : ByteOrder) (v : Word) : loadWord o (storeWord o v) = v := by
  cases o <;> simp [loadWord, storeWord]

@[simp] theorem storeWord_loadWord (o : ByteOrder) (q : Quad) : storeWord o (loadWord o q) = q := by
  cases o <;> simp [loadWord, storeWord]

@[simp] theorem unhdr32_hdr32 (cfg : Config) (v : Word) : unhdr32 cfg (hdr32 cfg v) = v :=
  loadWord_storeWord _ v

@[simp] theorem hdr32_unhdr32 (cfg : Config) (q : Quad) : hdr32 cfg (unhdr32 cfg q) = q :=
  storeWord_loadWord _ q

@[simp] theorem unimm32_imm32 (cfg : Config) (v : Word) : unimm32 cfg (imm32 cfg v) = v :=
  loadWord_storeWord _ v

@[simp] theorem imm32_unimm32 (cfg : Config) (q : Quad) : imm32 cfg (unimm32 cfg q) = q :=
  storeWord_loadWord _ q

section Placed

variable (cmd : BitVec 4) (key : BitVec 3) (c : Controls) (n : BitVec 16)

/-- The fields of a control word with every field at its place. -/
@[simp] theorem controlFields_placed :
    controlFields (placedControlWord cmd key c n) = variantFields cmd key c n := by
  simp only [controlFields, placedControlWord, variantFields, Fields.mk.injEq]
  refine ⟨?_, ?_, ?_, ?_, ?_, ?_, ?_⟩ <;> ext j hj <;> interval_cases j <;> simp

/-- The other control bits of a control word with every field at its place. -/
@[simp] theorem controlBits_placed : controlBits (placedControlWord cmd key c n) = c := by
  cases c
  simp only [controlBits, placedControlWord, reservedBits, Controls.mk.injEq]
  refine ⟨?_, ?_, ?_, ?_, ?_⟩ <;> ext j hj <;> interval_cases j <;> simp

/-- The reserved bits of a control word with every field at its place. -/
@[simp] theorem reservedBits_placed : reservedBits (placedControlWord cmd key c n) = c.rsv :=
  congrArg Controls.rsv (controlBits_placed cmd key c n)

end Placed

/-- `RSVD_NONZERO` says that `rsv` is not 0. -/
theorem rsvdFlag_eq (rsv : BitVec 2) : rsvdFlag rsv = decide (rsv ≠ 0) := by
  revert rsv; decide

/-- Putting a word's own fields back at their places gives the word. -/
theorem placed_self (v : Word) :
    placedControlWord (controlFields v).cmd (controlFields v).key (controlBits v) (controlFields v).reqCount = v := by
  unfold placedControlWord controlFields controlBits reservedBits
  ext j hj
  interval_cases j <;> simp

/-- The word rule R60 forms is the placed word with reserved bits 0. -/
theorem controlWord_eq_placed (cmd : BitVec 4) (s : BitVec 1) (key : BitVec 3) (i b w : BitVec 2) (n : BitVec 16) :
    controlWord cmd s key i b w n = placedControlWord cmd key ⟨s, 0, i, b, w⟩ n := by
  simp [controlWord, placedControlWord]

end Sys2Proof.Laws
end

