-- ==== Sys2Proof/Laws/Diagnose.lean ====
section
/-! SUPPORT. Which signatures a response carries, each by its own flag. -/

namespace Sys2Proof.Laws

open Sys2Proof.Machine

variable (fl : Flags) (kind : Kind) (f : Fields) (rsv : BitVec 2) (size : Nat) (w1 w2 w3 : Word)

@[simp] theorem mem_signatures_uninit :
    .uninitializedDescriptor ∈ signatures (.ok fl (.descriptor kind f rsv size w1 w2 w3)) ↔ fl.uninit = true := by
  simp [signatures]

@[simp] theorem mem_signatures_null :
    .nullBranchWithNonzeroZ ∈ signatures (.ok fl (.descriptor kind f rsv size w1 w2 w3)) ↔
      fl.nullNonzeroZ = true ∧ isTerminal kind = true := by
  simp [signatures]

@[simp] theorem mem_signatures_stop :
    .deliberateStop ∈ signatures (.ok fl (.descriptor kind f rsv size w1 w2 w3)) ↔
      fl.stop = true ∧ isTerminal kind = true := by
  simp [signatures]

end Sys2Proof.Laws
end

