-- ==== Sys2Proof/Laws/Ops.lean ====
section
/-! SUPPORT. Everything each shared operation can do, said once. -/

namespace Sys2Proof.Laws

open Sys2Proof.Machine

/-- `reply` answers and changes nothing else. -/
theorem reply_eq (r : Response) (s : State) : reply r s = .next { s with response := some r } := rfl

/-- `succeed` answers with flags and a result. -/
theorem succeed_eq (f : Flags) (v : Result) (s : State) :
    succeed f v s = .next { s with response := some (.ok f v) } := rfl

/-- `raise` answers with the error. -/
theorem raise_eq (e : Err) (s : State) : raise e s = .next { s with response := some (.error e) } := rfl

/-- `checked` raises the first error among its checks, or succeeds with no flag. -/
theorem checked_cases (checks : List (Option Err)) (v : Result) (s : State) :
    (∃ e, some e ∈ checks ∧ checked checks v s = .next { s with response := some (.error e) }) ∨
    ((∀ c ∈ checks, c = none) ∧ checked checks v s = .next { s with response := some (.ok .none v) }) := by
  unfold checked
  cases h : checks.findSome? id with
  | some e =>
    obtain ⟨c, hc, he⟩ := List.exists_of_findSome?_eq_some h
    exact .inl ⟨e, by simpa [show c = some e from he] using hc, rfl⟩
  | none => exact .inr ⟨fun c hc => by simpa using List.findSome?_eq_none_iff.mp h c hc, rfl⟩

/-- With no check failing, `checked` succeeds. -/
theorem checked_all_none {checks : List (Option Err)} (h : ∀ c ∈ checks, c = none) (v : Result) (s : State) :
    checked checks v s = .next { s with response := some (.ok .none v) } := by
  obtain ⟨e, he, -⟩ | ⟨-, h'⟩ := checked_cases checks v s
  · exact absurd (h _ he) (by simp)
  · exact h'

/-- A check that passes is skipped. -/
@[simp] theorem checked_none_cons (checks : List (Option Err)) (v : Result) (s : State) :
    checked (none :: checks) v s = checked checks v s := by
  simp [checked]

/-- The first check that fails is the one reported. -/
@[simp] theorem checked_some_cons (e : Err) (checks : List (Option Err)) (v : Result) (s : State) :
    checked (some e :: checks) v s = .next { s with response := some (.error e) } := by
  simp [checked, raise_eq]

/-- No check left: the operation succeeds. -/
@[simp] theorem checked_nil (v : Result) (s : State) :
    checked [] v s = .next { s with response := some (.ok .none v) } := rfl

/-- The range check by its bound. -/
theorem rangeError_cases (n : Word) :
    (n.toNat ≤ 0xFFFF ∧ rangeError n = none) ∨ (0xFFFF < n.toNat ∧ rangeError n = some (.fieldOverflow n)) := by
  unfold rangeError
  split
  · exact .inr ⟨by omega, rfl⟩
  · exact .inl ⟨by omega, rfl⟩

/-- `aligned16` is divisibility by 16. -/
theorem aligned16_iff (a : Word) : aligned16 a = true ↔ a.toNat % 16 = 0 := by
  have h : (a &&& 0xF).toNat = a.toNat % 16 := by
    simpa using Nat.and_two_pow_sub_one_eq_mod a.toNat 4
  rw [aligned16, beq_iff_eq, ← BitVec.toNat_inj, h]
  simp

/-- The alignment check on a pointer target by divisibility. -/
theorem targetError_cases (a : Word) :
    (a.toNat % 16 = 0 ∧ targetError a = none) ∨
    (a.toNat % 16 ≠ 0 ∧ targetError a = some (.misalignedAddress a)) := by
  unfold targetError
  split
  · rename_i h; exact .inl ⟨(aligned16_iff a).mp h, rfl⟩
  · rename_i h; exact .inr ⟨fun h' => h ((aligned16_iff a).mpr h'), rfl⟩

/-- The alignment check on a data address by the parameter and divisibility. -/
theorem dataError_cases (cfg : Config) (a : Word) :
    ((cfg.checkDataAlign = true → a.toNat % 16 = 0) ∧ dataError cfg a = none) ∨
    ((cfg.checkDataAlign = true ∧ a.toNat % 16 ≠ 0) ∧ dataError cfg a = some (.misalignedAddress a)) := by
  have h := aligned16_iff a
  unfold dataError
  cases hc : cfg.checkDataAlign <;> cases ha : aligned16 a <;> simp_all

/-- A step with a request pending runs the decoded instruction or answers what does not decode. -/
theorem step_cases {s t : State} (h : step s = .next t) :
    ∃ inp rest, s.requests = inp :: rest ∧
      ((∃ i, decode s.cfg inp = .ok i ∧ exec i { s with requests := rest } = .next t) ∨
       (∃ e, decode s.cfg inp = .error e ∧
         t = { s with requests := rest, response := some (undecodedResponse s.cfg e) })) := by
  unfold step at h
  cases hr : s.requests with
  | nil => simp [hr] at h
  | cons inp rest =>
    refine ⟨inp, rest, rfl, ?_⟩
    cases hd : decode s.cfg inp with
    | ok i => exact .inl ⟨i, rfl, by simpa [hr, hd] using h⟩
    | error e =>
      refine .inr ⟨e, rfl, ?_⟩
      simp only [hr, hd, reply_eq, Host.Outcome.next.injEq] at h
      exact h.symm

end Sys2Proof.Laws
end

