-- ==== Sys2Proof/Laws/PerInstr.lean ====
section
/-! SUPPORT. Per instruction: what the encoder writes matches the instruction's row of `spec/opcode_table.json`. -/

namespace Sys2Proof.Laws

open Sys2Proof.Machine

/-- A row of the table: the channel, and the mask and match on the selector or on `W0`. -/
structure TableRow where
  descriptor : Bool
  mask       : Word
  pattern    : Word
deriving DecidableEq, Repr

/-- The rows, as the table has them. -/
def tableRow (i : Instr) : TableRow :=
  match i with
  | .ctlEnc .. => ⟨false, 0x1F, 0x00⟩
  | .ctlDec .. => ⟨false, 0x1F, 0x01⟩
  | .ptrPack .. => ⟨false, 0x1F, 0x02⟩
  | .ptrUnpack .. => ⟨false, 0x1F, 0x03⟩
  | .ptrCheck .. => ⟨false, 0x1F, 0x04⟩
  | .ptrClass .. => ⟨false, 0x1F, 0x05⟩
  | .zval .. => ⟨false, 0x1F, 0x06⟩
  | .idxResolve .. => ⟨false, 0x1F, 0x07⟩
  | .encSv .. => ⟨false, 0x1F, 0x08⟩
  | .encOm .. => ⟨false, 0x1F, 0x09⟩
  | .encOmi .. => ⟨false, 0x1F, 0x0A⟩
  | .encOl .. => ⟨false, 0x1F, 0x0B⟩
  | .encOli .. => ⟨false, 0x1F, 0x0C⟩
  | .encOls .. => ⟨false, 0x1F, 0x0D⟩
  | .descDec .. => ⟨false, 0x1F, 0x0E⟩
  | .statDec .. => ⟨false, 0x1F, 0x0F⟩
  | .statEnc .. => ⟨false, 0x1F, 0x10⟩
  | .evtBenign .. => ⟨false, 0x1F, 0x11⟩
  | .storeValue .. => ⟨true, 0xF7000000, 0x86000000⟩
  | .outputMore .. => ⟨true, 0xF7000000, 0x00000000⟩
  | .outputMoreImmediate .. => ⟨true, 0xF7000000, 0x02000000⟩
  | .outputLast .. => ⟨true, 0xF7000000, 0x10000000⟩
  | .outputLastImmediate .. => ⟨true, 0xF7000000, 0x12000000⟩
  | .outputLastSkip .. => ⟨true, 0xF700FFFF, 0x10000000⟩

/-- An input matches a row. -/
def matchesRow (r : TableRow) (inp : Input) : Prop :=
  match inp with
  | .request op _ => r.descriptor = false ∧ op.setWidth 32 &&& r.mask = r.pattern
  | .descriptor slot _ => r.descriptor = true ∧ unhdr32 Config.default slot.w0 &&& r.mask = r.pattern

/-- What the encoder writes under the default configuration matches the instruction's row. -/
def TableMatch.Statement (i : Instr) : Prop := matchesRow (tableRow i) (encode Config.default i)

/-- The masked control word of a variant. -/
theorem placed_masked (cmd : BitVec 4) (key : BitVec 3) (c : Controls) (n : BitVec 16) :
    placedControlWord cmd key c n &&& 0xF7000000#32 = (cmd.setWidth 32 <<< 28) ||| (key.setWidth 32 <<< 24) := by
  unfold placedControlWord
  ext j hj
  interval_cases j <;> simp

/-- The count of a variant's control word under the mask of its low half. -/
theorem placed_low (cmd : BitVec 4) (key : BitVec 3) (c : Controls) (n : BitVec 16) :
    placedControlWord cmd key c n &&& 0x0000FFFF#32 = n.setWidth 32 := by
  unfold placedControlWord
  ext j hj
  interval_cases j <;> simp

/-- The masked control word of a variant whose count is 0. -/
theorem placed_masked_zero (cmd : BitVec 4) (key : BitVec 3) (c : Controls) :
    placedControlWord cmd key c 0 &&& 0xF700FFFF#32 = (cmd.setWidth 32 <<< 28) ||| (key.setWidth 32 <<< 24) := by
  have h : (0xF700FFFF#32) = 0xF7000000#32 ||| 0x0000FFFF#32 := by decide
  rw [h, BitVec.and_or_distrib_left, placed_masked, placed_low]
  simp

namespace TableMatch

theorem ctlEnc (cmd s key i b w n) : Statement (.ctlEnc cmd s key i b w n) := ⟨rfl, by simp [tableRow]⟩
theorem ctlDec (word) : Statement (.ctlDec word) := ⟨rfl, by simp [tableRow]⟩
theorem ptrPack (addr z) : Statement (.ptrPack addr z) := ⟨rfl, by simp [tableRow]⟩
theorem ptrUnpack (word) : Statement (.ptrUnpack word) := ⟨rfl, by simp [tableRow]⟩
theorem ptrCheck (word trueZ) : Statement (.ptrCheck word trueZ) := ⟨rfl, by simp [tableRow]⟩
theorem ptrClass (word) : Statement (.ptrClass word) := ⟨rfl, by simp [tableRow]⟩
theorem zval (n) : Statement (.zval n) := ⟨rfl, by simp [tableRow]⟩
theorem idxResolve (p b) : Statement (.idxResolve p b) := ⟨rfl, by simp [tableRow]⟩
theorem encSv (v d p z s i w) : Statement (.encSv v d p z s i w) := ⟨rfl, by simp [tableRow]⟩
theorem encOm (n d s i w) : Statement (.encOm n d s i w) := ⟨rfl, by simp [tableRow]⟩
theorem encOmi (q0 q1 p z s i w) : Statement (.encOmi q0 q1 p z s i w) := ⟨rfl, by simp [tableRow]⟩
theorem encOl (n d p z s i w) : Statement (.encOl n d p z s i w) := ⟨rfl, by simp [tableRow]⟩
theorem encOli (q0 q1 p z s i w) : Statement (.encOli q0 q1 p z s i w) := ⟨rfl, by simp [tableRow]⟩
theorem encOls (p z s i w) : Statement (.encOls p z s i w) := ⟨rfl, by simp [tableRow]⟩
theorem descDec (slot v prev) : Statement (.descDec slot v prev) := ⟨rfl, by simp [tableRow]⟩
theorem statDec (word) : Statement (.statDec word) := ⟨rfl, by simp [tableRow]⟩
theorem statEnc (x t) : Statement (.statEnc x t) := ⟨rfl, by simp [tableRow]⟩
theorem evtBenign (e) : Statement (.evtBenign e) := ⟨rfl, by simp [tableRow]⟩

theorem storeValue (c n w1 w2 w3) : Statement (.storeValue c n w1 w2 w3) :=
  ⟨rfl, by
    simp only [tableRow, encodeSlot, unhdr32_hdr32]
    exact (placed_masked _ _ _ _).trans rfl⟩
theorem outputMore (c n w1 w2 w3) : Statement (.outputMore c n w1 w2 w3) :=
  ⟨rfl, by
    simp only [tableRow, encodeSlot, unhdr32_hdr32]
    exact (placed_masked _ _ _ _).trans rfl⟩
theorem outputMoreImmediate (c n w1 w2 w3 q0 q1 p0 p1) :
    Statement (.outputMoreImmediate c n w1 w2 w3 q0 q1 p0 p1) :=
  ⟨rfl, by
    simp only [tableRow, encodeSlot, unhdr32_hdr32]
    exact (placed_masked _ _ _ _).trans rfl⟩
theorem outputLast (c n w1 w2 w3) : Statement (.outputLast c n w1 w2 w3) :=
  ⟨rfl, by
    simp only [tableRow, encodeSlot, unhdr32_hdr32]
    exact (placed_masked _ _ _ _).trans rfl⟩
theorem outputLastImmediate (c n w1 w2 w3 q0 q1 p0 p1) :
    Statement (.outputLastImmediate c n w1 w2 w3 q0 q1 p0 p1) :=
  ⟨rfl, by
    simp only [tableRow, encodeSlot, unhdr32_hdr32]
    exact (placed_masked _ _ _ _).trans rfl⟩
theorem outputLastSkip (c w1 w2 w3) : Statement (.outputLastSkip c w1 w2 w3) :=
  ⟨rfl, by
    simp only [tableRow, encodeSlot, unhdr32_hdr32]
    exact (placed_masked_zero _ _ _).trans rfl⟩

end TableMatch

end Sys2Proof.Laws
end

