-- ==== Sys2Proof/Laws/Pointer.lean ====
section
/-! SUPPORT. The pointer operations in numbers. -/

namespace Sys2Proof.Laws

open Sys2Proof.Machine

/-- The address half rounds down to a multiple of 16. -/
theorem toNat_unpackAddr (w : Word) : (unpackAddr w).toNat = w.toNat / 16 * 16 := by
  have h : unpackAddr w = (w >>> 4) <<< 4 := by
    unfold unpackAddr
    ext j hj
    interval_cases j <;> simp
  rw [h]
  simp [Nat.shiftRight_eq_div_pow, Nat.shiftLeft_eq]
  omega

/-- The Z half is the remainder. -/
theorem toNat_unpackZ (w : Word) : (unpackZ w).toNat = w.toNat % 16 := by
  simp [unpackZ]

/-- A packed pointer is the rounded address plus the remainder of Z. -/
theorem toNat_pack (a z : Word) : (pack a z).toNat = a.toNat / 16 * 16 + z.toNat % 16 := by
  have h : pack a z = unpackAddr a + (unpackZ z).setWidth 32 := by
    rw [BitVec.add_eq_or_of_and_eq_zero]
    · unfold pack unpackAddr unpackZ
      congr 1
      ext j hj
      interval_cases j <;> simp
    · unfold unpackAddr unpackZ
      ext j hj
      interval_cases j <;> simp
  rw [h, BitVec.toNat_add, toNat_unpackAddr, BitVec.toNat_setWidth, toNat_unpackZ]
  have := a.isLt
  omega

/-- The class of a pointer by its two halves. -/
theorem classify_eq (w : Word) :
    classify w = if w.toNat % 16 = 0 then .stop else if w.toNat / 16 = 0 then .nullNonzeroZ else .valid := by
  have h1 : unpackZ w = 0 ↔ w.toNat % 16 = 0 := by
    rw [← BitVec.toNat_inj, toNat_unpackZ]; rfl
  have h2 : unpackAddr w = 0 ↔ w.toNat / 16 = 0 := by
    rw [← BitVec.toNat_inj, toNat_unpackAddr]
    show _ = 0 ↔ _
    omega
  simp only [classify, h1, h2]

/-- `STOP` says that Z is 0. -/
theorem stopFlag_eq (w : Word) : stopFlag w = decide (w.toNat % 16 = 0) := by
  rw [stopFlag, classify_eq]
  split
  · simp [*]
  · split <;> simp [*]

/-- `NULL_NONZERO_Z` says that Z is not 0 and the address is. -/
theorem nullFlag_eq (w : Word) : nullFlag w = decide (w.toNat % 16 ≠ 0 ∧ w.toNat / 16 = 0) := by
  rw [nullFlag, classify_eq]
  split
  · simp [*]
  · split <;> simp [*]

end Sys2Proof.Laws
end

