-- ==== Sys2Proof/Laws/State.lean ====
section
/-! SUPPORT. What each update of the state leaves in each field. -/

namespace Sys2Proof.Laws

open Sys2Proof.Machine

@[simp] theorem reset_cfg : State.reset.cfg = Config.default := rfl
@[simp] theorem reset_requests : State.reset.requests = [] := rfl
@[simp] theorem reset_response : State.reset.response = none := rfl

@[simp] theorem hostReset_cfg (s : State) : (hostReset s).cfg = s.cfg := rfl
@[simp] theorem hostReset_requests (s : State) : (hostReset s).requests = s.requests := rfl
@[simp] theorem hostReset_response (s : State) : (hostReset s).response = none := rfl

@[simp] theorem hostResetDuringRequest_cfg (s : State) : (hostResetDuringRequest s).cfg = s.cfg := rfl
@[simp] theorem hostResetDuringRequest_requests (s : State) :
    (hostResetDuringRequest s).requests = s.requests.tail := rfl
@[simp] theorem hostResetDuringRequest_response (s : State) : (hostResetDuringRequest s).response = none := rfl

@[simp] theorem hostSend_cfg (inp : Input) (s : State) : (hostSend inp s).cfg = s.cfg := rfl
@[simp] theorem hostSend_requests (inp : Input) (s : State) : (hostSend inp s).requests = s.requests ++ [inp] := rfl
@[simp] theorem hostSend_response (inp : Input) (s : State) : (hostSend inp s).response = s.response := rfl

@[simp] theorem withFetchWord_cfg (s : State) (nbits w : Nat) : (s.withFetchWord nbits w).cfg = s.cfg := rfl
@[simp] theorem withFetchWord_requests (s : State) (nbits w : Nat) :
    (s.withFetchWord nbits w).requests = tableInput s.cfg nbits w :: s.requests := rfl
@[simp] theorem withFetchWord_response (s : State) (nbits w : Nat) :
    (s.withFetchWord nbits w).response = s.response := rfl

end Sys2Proof.Laws
end

