-- ==== Sys2Proof/Tests/Slice0.lean ====
section
/-! SUPPORT. The model's own tests.

Expected values come from the spec: the vectors `V<n>` and programs `P<n>` of `95_test_vectors.md`, the examples of the
section files, and hand reading of the layouts.  Each test runs one step from reset.  The witnesses at the end show, for
every statement with hypotheses, a state and operands that meet them. -/

namespace Sys2Proof.Tests

open Sys2Proof.Machine Sys2Proof.Safety

/-- Four bytes as the spec writes them, lowest address first: `EF BE 00 86` is `0xEFBE0086`. -/
def quadOf (n : Nat) : Quad :=
  ⟨BitVec.ofNat 8 (n >>> 24), BitVec.ofNat 8 (n >>> 16), BitVec.ofNat 8 (n >>> 8), BitVec.ofNat 8 n⟩

/-- Sixteen bytes as the spec writes them, four at a time. -/
def slotOf (a b c d : Nat) : Bytes16 := ⟨quadOf a, quadOf b, quadOf c, quadOf d⟩

/-- The response to one request under the default parameters. -/
def ask (op : BitVec 5) (p : Ports) : Option Response := responseAlone Config.default (.request op p)

/-- The response to one request under given parameters. -/
def askWith (cfg : Config) (op : BitVec 5) (p : Ports) : Option Response := responseAlone cfg (.request op p)

/-- A state with one request to send. -/
def sending (cfg : Config) (inp : Input) : State := ⟨cfg, [inp], none⟩

/-- The default parameters with data addresses checked. -/
def checkingConfig : Config := { Config.default with checkDataAlign := true }

/-- The default parameters with big-endian headers and little-endian quadlets. -/
def swappedConfig : Config := { Config.default with hdrOrder := .bigEndian, immOrder := .littleEndian }

/-! ## Well-formedness: each check refuses an ill-formed term -/

theorem test_wellFormed_default : Config.default.wellFormed = true := by decide
theorem test_wellFormed_zero_count :
    Instr.wellFormed (.outputLast ⟨0, 0, 0, 3, 0⟩ 0 0 0 0) = false ∧
    Instr.wellFormed (.outputLast ⟨0, 0, 0, 3, 0⟩ 1 0 0 0) = true := by decide
theorem test_wellFormed_pairs :
    Config.pairsDistinct { Config.default with cmdOutputMore := 1 } = false ∧
    Config.wellFormed { Config.default with cmdOutputMore := 1 } = false := by decide
theorem test_wellFormed_storeKey :
    Config.storeKeyNotImmediate { Config.default with keyStore := 2 } = false ∧
    Config.wellFormed { Config.default with keyStore := 2 } = false := by decide
theorem test_wellFormed_fill :
    Config.fillSpellsNothing { Config.default with cmdStoreValue := 13 } = false ∧
    Config.wellFormed { Config.default with cmdStoreValue := 13 } = false := by decide
theorem test_wellFormed_places :
    Config.placesDistinct { Config.default with wStatus := .w1 } = false ∧
    Config.wellFormed { Config.default with wStatus := .w1 } = false := by decide

/-! ## Decoding -/

/-- Ports that all differ, so that a swapped operand shows. -/
def ports : Ports where
  cmd := 9
  s := 1
  key := 5
  i := 2
  b := 3
  w := 1
  reqCount := 101
  word := 102
  addr := 103
  z := 104
  trueZ := 105
  totalBytes := 106
  commandPtr := 107
  baseAddress := 108
  dataAddress := 109
  ptrAddr := 110
  ptrZ := 111
  q0 := 112
  q1 := 113
  value := 114
  slot := slotOf 1 2 3 4
  prevValid := 1
  prev := slotOf 5 6 7 8
  xferStatus := 115
  timeStamp := 116
  eventCode := 117

/-- The first half of the operation map (rule R52) with the operands of rule R11. -/
theorem test_decode_requests_low :
    decodeRequest 0b00000 ports = .ok (.ctlEnc 9 1 5 2 3 1 101) ∧
    decodeRequest 0b00001 ports = .ok (.ctlDec 102) ∧
    decodeRequest 0b00010 ports = .ok (.ptrPack 103 104) ∧
    decodeRequest 0b00011 ports = .ok (.ptrUnpack 102) ∧
    decodeRequest 0b00100 ports = .ok (.ptrCheck 102 105) ∧
    decodeRequest 0b00101 ports = .ok (.ptrClass 102) ∧
    decodeRequest 0b00110 ports = .ok (.zval 106) ∧
    decodeRequest 0b00111 ports = .ok (.idxResolve 107 108) ∧
    decodeRequest 0b01000 ports = .ok (.encSv 114 109 110 111 1 2 1) := ⟨rfl, rfl, rfl, rfl, rfl, rfl, rfl, rfl, rfl⟩

/-- The second half of the operation map. -/
theorem test_decode_requests_high :
    decodeRequest 0b01001 ports = .ok (.encOm 101 109 1 2 1) ∧
    decodeRequest 0b01010 ports = .ok (.encOmi 112 113 110 111 1 2 1) ∧
    decodeRequest 0b01011 ports = .ok (.encOl 101 109 110 111 1 2 1) ∧
    decodeRequest 0b01100 ports = .ok (.encOli 112 113 110 111 1 2 1) ∧
    decodeRequest 0b01101 ports = .ok (.encOls 110 111 1 2 1) ∧
    decodeRequest 0b01110 ports = .ok (.descDec (slotOf 1 2 3 4) 1 (slotOf 5 6 7 8)) ∧
    decodeRequest 0b01111 ports = .ok (.statDec 102) ∧
    decodeRequest 0b10000 ports = .ok (.statEnc 115 116) ∧
    decodeRequest 0b10001 ports = .ok (.evtBenign 117) ∧
    decodeRequest 0b10010 ports = .error (.reservedSelector 0b10010) ∧
    decodeRequest 0b11111 ports = .error (.reservedSelector 0b11111) :=
  ⟨rfl, rfl, rfl, rfl, rfl, rfl, rfl, rfl, rfl, rfl, rfl⟩

/-- V60's bytes. -/
theorem test_decode_storeValue :
    decodeDescriptor Config.default (slotOf 0xEFBE0086 0x00100090 0x44000080 0) .zeros
      = .ok (.storeValue ⟨0, 0, 0, 0, 0⟩ 0xBEEF 0x90001000 0x80000044 0) := by rfl
/-- V65's bytes: `s`, `i`, `w` all set. -/
theorem test_decode_outputMore :
    decodeDescriptor Config.default (slotOf 0xFFFF3308 0xFFFFFFFF 0 0) .zeros
      = .ok (.outputMore ⟨1, 0, 3, 0, 3⟩ 0xFFFF 0xFFFFFFFF 0 0) := by rfl
/-- V66's bytes: the quadlets are read most significant byte first. -/
theorem test_decode_outputMoreImmediate :
    decodeDescriptor Config.default (slotOf 0x08000002 0x03000080 0 0) (slotOf 0x00020090 0x9002FFFF 0 0)
      = .ok (.outputMoreImmediate ⟨0, 0, 0, 0, 0⟩ 8 0x80000003 0 0 0x00020090 0x9002FFFF .zeros .zeros) := by rfl
/-- V115's bytes: reserved bits set and `b = 0` are kept. -/
theorem test_decode_outputLast :
    decodeDescriptor Config.default (slotOf 0x1000C010 0x00000090 0x31000080 0xCDAB1184) .zeros
      = .ok (.outputLast ⟨0, 3, 0, 0, 0⟩ 16 0x90000000 0x80000031 0x8411ABCD) := by rfl
/-- V70's bytes. -/
theorem test_decode_outputLastImmediate :
    decodeDescriptor Config.default (slotOf 0x08003C1A 0x02000080 0 0) (slotOf 0x00020090 0x9002FFFF 0 0)
      = .ok (.outputLastImmediate ⟨1, 0, 3, 3, 0⟩ 8 0x80000002 0 0 0x00020090 0x9002FFFF .zeros .zeros) := by rfl
/-- V71's bytes. -/
theorem test_decode_outputLastSkip :
    decodeDescriptor Config.default (slotOf 0x00000C10 0 0x11000080 0) .zeros
      = .ok (.outputLastSkip ⟨0, 0, 0, 3, 0⟩ 0 0x80000011 0) := by rfl
/-- V111's and V116's bytes spell no variant. -/
theorem test_decode_noVariant :
    decodeDescriptor Config.default (slotOf 0xDEDEDEDE 0xDEDEDEDE 0xDEDEDEDE 0xDEDEDEDE) .zeros
      = .error (.noVariant (slotOf 0xDEDEDEDE 0xDEDEDEDE 0xDEDEDEDE 0xDEDEDEDE)) ∧
    decodeDescriptor Config.default (slotOf 0x00000020 0 0x05000000 0) .zeros
      = .error (.noVariant (slotOf 0x00000020 0 0x05000000 0)) := ⟨rfl, rfl⟩
/-- With other byte orders the same descriptor stands in other bytes (rule R25). -/
theorem test_decode_orders :
    decodeDescriptor swappedConfig (slotOf 0x02000008 0x80000003 0 0) (slotOf 0x90000200 0xFFFF0290 0 0)
      = .ok (.outputMoreImmediate ⟨0, 0, 0, 0, 0⟩ 8 0x80000003 0 0 0x00020090 0x9002FFFF .zeros .zeros) := by rfl
/-- Words of the table: the fields of rule R42 at their bits. -/
theorem test_decode_tableWords :
    decodeTableWord 32 0x86000000 = some (.storeValue ⟨0, 0, 0, 0, 0⟩ 0 0 0 0) ∧
    decodeTableWord 32 0x183FFFFF = some (.outputLast ⟨1, 0, 3, 3, 3⟩ 0xFFFF 0 0 0) ∧
    decodeTableWord 8 0x11 = some (.evtBenign 0) ∧ decodeTableWord 8 0x12 = none := by decide
/-- An instruction stored where the next one is fetched runs first. -/
theorem test_withFetchWord :
    (match step (State.reset.withFetchWord 8 0x05) with
      | .next t => t.response
      | _ => none) = some (.ok { stop := true } (.ptrClass .stop)) := by decide

/-! ## Control word -/

/-- V2 and V3. -/
theorem test_ctlEnc :
    ask 0x00 { cmd := 15, s := 1, key := 7, i := 3, b := 3, w := 3, reqCount := 0xFFFF }
      = some (.ok .none (.word 0xFF3FFFFF)) ∧
    ask 0x00 { cmd := 1, s := 1, key := 0, i := 1, b := 2, w := 1, reqCount := 0x8000 }
      = some (.ok .none (.word 0x18198000)) := by decide
/-- V4. -/
theorem test_ctlEnc_overflow :
    ask 0x00 { cmd := 1, key := 2, i := 3, b := 3, reqCount := 0x10000 }
      = some (.error (.fieldOverflow 0x10000)) := by decide
/-- S2 and V12. -/
theorem test_ctlDec :
    ask 0x01 { word := 0x123C000C } = some (.ok .none (.fields ⟨1, 0, 2, 3, 3, 0, 12⟩ 0)) ∧
    ask 0x01 { word := 0x18598000 } = some (.ok { rsvdNonzero := true } (.fields ⟨1, 1, 0, 1, 2, 1, 0x8000⟩ 1)) := by
  decide
/-- V8 to V11: the reserved bits come back as `rsv`. -/
theorem test_ctlDec_reserved :
    ask 0x01 { word := 0xFFFFFFFF } = some (.ok { rsvdNonzero := true } (.fields ⟨15, 1, 7, 3, 3, 3, 0xFFFF⟩ 3)) ∧
    ask 0x01 { word := 0xDEDEDEDE } = some (.ok { rsvdNonzero := true } (.fields ⟨13, 1, 6, 1, 3, 2, 0xDEDE⟩ 3)) ∧
    ask 0x01 { word := 0x00400000 } = some (.ok { rsvdNonzero := true } (.fields ⟨0, 0, 0, 0, 0, 0, 0⟩ 1)) ∧
    ask 0x01 { word := 0x00C00000 } = some (.ok { rsvdNonzero := true } (.fields ⟨0, 0, 0, 0, 0, 0, 0⟩ 3)) := by decide

/-! ## Pointers -/

/-- V21 and V27. -/
theorem test_ptrPack :
    ask 0x02 { addr := 0x8000003F, z := 0x13 } = some (.ok .none (.word 0x80000033)) ∧
    ask 0x02 { addr := 0, z := 0xFFFFFFFF } = some (.ok .none (.word 0x0000000F)) := by decide
/-- V28 and V30. -/
theorem test_ptrUnpack :
    ask 0x03 { word := 0x80000033 } = some (.ok .none (.pointer 0x80000030 3)) ∧
    ask 0x03 { word := 0xFFFFFFFF } = some (.ok .none (.pointer 0xFFFFFFF0 15)) := by decide
/-- V31 and V33. -/
theorem test_ptrCheck :
    ask 0x04 { word := 0x80000003, trueZ := 3 } = some (.ok .none (.pointer 0x80000000 3)) ∧
    ask 0x04 { word := 0x80000201, trueZ := 17 } = some (.ok { zMismatch := true } (.pointer 0x80000200 1)) := by decide
/-- V36, V38 and V40. -/
theorem test_ptrClass :
    ask 0x05 { word := 0x80000030 } = some (.ok { stop := true } (.ptrClass .stop)) ∧
    ask 0x05 { word := 0x0000000F } = some (.ok { nullNonzeroZ := true } (.ptrClass .nullNonzeroZ)) ∧
    ask 0x05 { word := 0x00000011 } = some (.ok .none (.ptrClass .valid)) := by decide
/-- V41, V42 and V43. -/
theorem test_zval :
    ask 0x06 { totalBytes := 17 } = some (.ok .none (.zValue 2)) ∧
    ask 0x06 { totalBytes := 272 } = some (.ok .none (.zValue 17)) ∧
    ask 0x06 { totalBytes := 0xFFFFFFFF } = some (.ok .none (.zValue 0x10000000)) := by decide
/-- V45 and V49. -/
theorem test_idxResolve :
    ask 0x07 { commandPtr := 0x80000033, baseAddress := 0x80000000 } = some (.ok .none (.index (some 3))) ∧
    ask 0x07 { commandPtr := 0xFFFFFFFF, baseAddress := 0 } = some (.ok .none (.index (some 0x0FFFFFFF))) := by decide
/-- V47 and V48. -/
theorem test_idxResolve_flags :
    ask 0x07 { commandPtr := 0x80000030, baseAddress := 0x80000008 }
      = some (.ok { baseMisaligned := true } (.index none)) ∧
    ask 0x07 { commandPtr := 0x7FFFFFF0, baseAddress := 0x80000000 }
      = some (.ok { outOfRange := true } (.index none)) := by decide

/-! ## Encoders -/

/-- V61. -/
theorem test_encSv :
    ask 0x08 { value := 0xFFFF, dataAddress := 0x90001000, ptrAddr := 0x80000040, ptrZ := 20 }
      = some (.ok .none (.bytes16 (slotOf 0xFFFF0086 0x00100090 0x44000080 0))) := by decide
/-- V83. -/
theorem test_encSv_misaligned :
    ask 0x08 { value := 1, ptrAddr := 0x8000000C, ptrZ := 1 }
      = some (.error (.misalignedAddress 0x8000000C)) := by decide
/-- V65. -/
theorem test_encOm :
    ask 0x09 { reqCount := 0xFFFF, dataAddress := 0xFFFFFFFF, s := 1, i := 3, w := 3 }
      = some (.ok .none (.bytes16 (slotOf 0xFFFF3308 0xFFFFFFFF 0 0))) := by decide
/-- V80, and V87 with the data address checked. -/
theorem test_encOm_errors :
    ask 0x09 { reqCount := 0x10000, dataAddress := 0x90003000 } = some (.error (.fieldOverflow 0x10000)) ∧
    askWith checkingConfig 0x09 { reqCount := 8, dataAddress := 0x90000004 }
      = some (.error (.misalignedAddress 0x90000004)) := by decide
/-- V66. -/
theorem test_encOmi :
    ask 0x0A { q0 := 0x00020090, q1 := 0x9002FFFF, ptrAddr := 0x80000000, ptrZ := 3 }
      = some (.ok .none (.bytes32
          ⟨slotOf 0x08000002 0x03000080 0 0, slotOf 0x00020090 0x9002FFFF 0 0⟩)) := by decide
/-- V84. -/
theorem test_encOmi_misaligned :
    ask 0x0A { ptrAddr := 0x80000001, ptrZ := 1 } = some (.error (.misalignedAddress 0x80000001)) := by decide
/-- V68. -/
theorem test_encOl :
    ask 0x0B { reqCount := 0xFFFF, dataAddress := 0x90000004, ptrAddr := 0xFFFFFFF0, ptrZ := 15, s := 1, i := 3, w := 3 }
      = some (.ok .none (.bytes16 (slotOf 0xFFFF3F18 0x04000090 0xFFFFFFFF 0))) := by decide
/-- V81 and V82: the order of the checks. -/
theorem test_encOl_errors :
    ask 0x0B { reqCount := 0x10000, ptrAddr := 0x80000108, ptrZ := 5 } = some (.error (.fieldOverflow 0x10000)) ∧
    ask 0x0B { reqCount := 40, dataAddress := 0x90003020, ptrAddr := 0x80000108, ptrZ := 5 }
      = some (.error (.misalignedAddress 0x80000108)) := by decide
/-- V70. -/
theorem test_encOli :
    ask 0x0C { q0 := 0x00020090, q1 := 0x9002FFFF, ptrAddr := 0x80000000, ptrZ := 2, s := 1, i := 3 }
      = some (.ok .none (.bytes32
          ⟨slotOf 0x08003C1A 0x02000080 0 0, slotOf 0x00020090 0x9002FFFF 0 0⟩)) := by decide
/-- V86: checked even though Z is 0. -/
theorem test_encOli_misaligned :
    ask 0x0C { ptrAddr := 0x00000008 } = some (.error (.misalignedAddress 0x00000008)) := by decide
/-- V71. -/
theorem test_encOls :
    ask 0x0D { ptrAddr := 0x80000010, ptrZ := 1 }
      = some (.ok .none (.bytes16 (slotOf 0x00000C10 0 0x11000080 0))) := by decide
/-- V85. -/
theorem test_encOls_misaligned :
    ask 0x0D { ptrAddr := 0xFFFFFFFF, ptrZ := 1 } = some (.error (.misalignedAddress 0xFFFFFFFF)) := by decide
/-- V88. -/
theorem test_reserved_selector :
    ask 0x12 {} = some (.error (.illegalOp 0x12)) ∧ ask 0x1F {} = some (.error (.illegalOp 0x1F)) := by decide

/-! ## Descriptor decode -/

/-- V103: the second slot of an immediate descriptor. -/
theorem test_descDec_second_half :
    ask 0x0E { slot := slotOf 0x00020090 0x9002FFFF 0 0, prevValid := 1, prev := slotOf 0x08000002 0x03000080 0 0 }
      = some (.ok { secondHalf := true }
          (.descriptor .unknown ⟨9, 0, 0, 0, 0, 0, 0x0200⟩ 0 16 0xFFFF0290 0 0)) := by decide
/-- V111 and V112: sixteen fill bytes, and fifteen. -/
theorem test_descDec_fill :
    ask 0x0E { slot := slotOf 0xDEDEDEDE 0xDEDEDEDE 0xDEDEDEDE 0xDEDEDEDE }
      = some (.ok { rsvdNonzero := true, uninit := true }
          (.descriptor .unknown ⟨13, 1, 6, 1, 3, 2, 0xDEDE⟩ 3 16 0xDEDEDEDE 0xDEDEDEDE 0xDEDEDEDE)) ∧
    ask 0x0E { slot := slotOf 0xDEDEDEDE 0xDEDEDEDE 0xDEDEDEDE 0xDEDEDEDF }
      = some (.ok { rsvdNonzero := true }
          (.descriptor .unknown ⟨13, 1, 6, 1, 3, 2, 0xDEDE⟩ 3 16 0xDEDEDEDE 0xDEDEDEDE 0xDFDEDEDE)) := by decide
/-- V115, V116 and V117 as bytes handed over: entries 6 and 8 of the log. -/
theorem test_descriptor_handed_over :
    responseAlone Config.default (.descriptor (slotOf 0x1000C010 0x00000090 0x31000080 0xCDAB1184) .zeros)
      = some (.ok { rsvdNonzero := true }
          (.descriptor .outputLast ⟨1, 0, 0, 0, 0, 0, 16⟩ 3 16 0x90000000 0x80000031 0x8411ABCD)) ∧
    responseAlone Config.default (.descriptor (slotOf 0x00000020 0 0x05000000 0) .zeros)
      = some (.ok .none (.descriptor .unknown ⟨2, 0, 0, 0, 0, 0, 0⟩ 0 16 0 0x00000005 0)) := by decide
/-- V117: limit (b) of rule R104. -/
theorem test_descDec_false_second_half :
    ask 0x0E { slot := slotOf 0x20000000 0x00010090 0 0, prevValid := 1, prev := slotOf 0x00000022 0 0 0 }
      = some (.ok { secondHalf := true }
          (.descriptor .outputMore ⟨0, 0, 0, 0, 0, 0, 32⟩ 0 16 0x90000100 0 0)) := by decide
/-- V108 and V109, the descriptors handed over as instructions. -/
theorem test_pointer_flags :
    responseAlone Config.default (.descriptor (slotOf 0x04000C10 0x00000090 0x03000000 0) .zeros)
      = some (.ok { nullNonzeroZ := true }
          (.descriptor .outputLast ⟨1, 0, 0, 0, 3, 0, 4⟩ 0 16 0x90000000 0x00000003 0)) ∧
    responseAlone Config.default (.descriptor (slotOf 0x00000086 0 0 0) .zeros)
      = some (.ok { stop := true } (.descriptor .storeValue ⟨8, 0, 6, 0, 0, 0, 0⟩ 0 16 0 0 0)) := by decide
/-- V102 and V106, the descriptors handed over. -/
theorem test_immediate_and_skip :
    responseAlone Config.default
        (.descriptor (slotOf 0x08000002 0x03000080 0 0) (slotOf 0x00020090 0x9002FFFF 0 0))
      = some (.ok .none (.descriptor .outputMoreImmediate ⟨0, 0, 2, 0, 0, 0, 8⟩ 0 32 0x80000003 0 0)) ∧
    responseAlone Config.default (.descriptor (slotOf 0x00000C10 0 0x11000080 0) .zeros)
      = some (.ok .none (.descriptor .outputLastSkip ⟨1, 0, 0, 0, 3, 0, 0⟩ 0 16 0 0x80000011 0)) := by decide
/-- V114, the descriptor handed over: a count of 12 is not refused (C6). -/
theorem test_outputLastImmediate_count :
    responseAlone Config.default (.descriptor (slotOf 0x0C003C12 0x32000080 0 0) .zeros)
      = some (.ok .none (.descriptor .outputLastImmediate ⟨1, 0, 2, 3, 3, 0, 12⟩ 0 32 0x80000032 0 0)) := by decide
/-- V101, the descriptor handed over. -/
theorem test_outputMore :
    responseAlone Config.default (.descriptor (slotOf 0x20000000 0x00010090 0 0) .zeros)
      = some (.ok .none (.descriptor .outputMore ⟨0, 0, 0, 0, 0, 0, 32⟩ 0 16 0x90000100 0 0)) := by decide

/-! ## Status word -/

/-- V121, and V126 with the halves swapped. -/
theorem test_statDec :
    ask 0x0F { word := 0x8411ABCD } = some (.ok .none (.status 0x8411 0xABCD 0x11)) ∧
    askWith { Config.default with stXferHi := false } 0x0F { word := 0x8411ABCD }
      = some (.ok .none (.status 0xABCD 0x8411 0xCD)) := by decide
/-- V124. -/
theorem test_statEnc :
    ask 0x10 { xferStatus := 0x8411, timeStamp := 0xABCD } = some (.ok .none (.word 0x8411ABCD)) := by decide
/-- V127 and V128. -/
theorem test_evtBenign :
    ask 0x11 { eventCode := 0x00 } = some (.ok .none (.benign true)) ∧
    ask 0x11 { eventCode := 0x11 } = some (.ok .none (.benign true)) ∧
    ask 0x11 { eventCode := 0x12 } = some (.ok .none (.benign true)) ∧
    ask 0x11 { eventCode := 0x0A } = some (.ok .none (.benign false)) ∧
    ask 0x11 { eventCode := 0x13 } = some (.ok .none (.benign false)) := by decide

/-! ## The port, sizes, text -/

/-- V8 with V88: the flag bit of rule R16, the codes of rule R125. -/
theorem test_port_numbers :
    (ask 0x01 { word := 0xFFFFFFFF }).map responseFlags = some 0x02 ∧
    (ask 0x12 {}).bind responseErr = some 3 ∧ (ask 0x12 {}).map responseStatus = some 1 := by decide
/-- S1: an OutputMoreImmediate and an OutputLast fill three slots. -/
theorem test_sizes :
    variantSize .outputMoreImmediate = some 32 ∧ variantSize .outputLast = some 16 ∧
    slotsFor 48 = 3 ∧ slotAddress 0x80000000 3 = 0x80000030 := by decide
/-- The pseudo-operations of rule R57. -/
theorem test_pseudo :
    pseudoEncode (.outputLastSkip 0x80000010 1) 0 0 0 = .encOls 0x80000010 1 0 0 0 ∧
    irqField true = 3 ∧ irqField false = 0 := by decide
/-- The example of rule R56. -/
theorem test_text_ctlDec :
    transactionText (.ctlDec 0x123C000C) (.ok .none (.fields ⟨1, 0, 2, 3, 3, 0, 12⟩ 0))
      = "CTL.DEC word=0x123C000C -> cmd=1 s=0 key=2 i=3 b=3 w=0 reqCount=12" := by decide
/-- The error notation of rule R56. -/
theorem test_text_error :
    String.ofList (responseText (.error (.fieldOverflow 0x10000))) = "-> ERR FieldOverflow(0x10000)" := by
  decide

/-- Program P3, scenario S4: index 3, `UninitializedDescriptor`. -/
theorem test_diagnose :
    diagnose [⟨0x0A, some 0x80000030, true⟩] (some 0x80000000)
      [slotOf 0x08000002 0x33000080 0 0, slotOf 0x00020090 0x9002FFFF 0 0,
        slotOf 0x40000C10 0x00000090 0x33000080 0, slotOf 0xDEDEDEDE 0xDEDEDEDE 0xDEDEDEDE 0xDEDEDEDE] State.reset
      = .found 3 [.uninitializedDescriptor] := by decide
/-- Steps 2 and 6 of rule R106: a benign event alone is the fallback, and a missing base is `InsufficientData`. -/
theorem test_diagnose_missing :
    criticalEvent Config.default [⟨0x11, none, false⟩, ⟨0x0A, some 1, false⟩, ⟨0x12, none, false⟩]
      = some ⟨0x0A, some 1, false⟩ ∧
    criticalEvent Config.default [⟨0x11, none, false⟩] = some ⟨0x11, none, false⟩ ∧
    diagnose [⟨0x0A, some 0x80000030, true⟩] none [.zeros] State.reset = .insufficientData := by decide
/-- A StoreValue's zero-Z skip pointer (V109) has no tag, an OutputLastSkip's (V107) has one (rule R103). -/
theorem test_signatures :
    (ask 0x0E { slot := slotOf 0x00000086 0 0 0 }).map signatures = some [] ∧
    (ask 0x0E { slot := slotOf 0x00000C10 0 0 0 }).map signatures = some [.deliberateStop] := by decide

/-! ## Witnesses: states and operands that meet each statement's hypotheses -/

/-- A request that fails, and the state it leaves. -/
def failing : Input := .request 0x09 { reqCount := 0x10000 }

theorem test_witness_step :
    (sending Config.default (.request 0x05 {})).requests = [.request 0x05 {}] ∧
    decode Config.default (.request 0x05 {}) = .ok (.ptrClass 0) := ⟨rfl, rfl⟩
theorem test_witness_reserved :
    0x12 ≤ (0x12 : BitVec 5).toNat ∧ 0x12 ≤ (0x1F : BitVec 5).toNat ∧
    (sending Config.default (.request 0x12 {})).requests = [.request 0x12 {}] := by decide
theorem test_witness_round_trip :
    Config.default.wellFormed = true ∧ swappedConfig.wellFormed = true ∧
    Instr.wellFormed (.outputLast ⟨0, 0, 0, 3, 0⟩ 1 0 0 0) = true ∧ Instr.wellFormed (.ctlDec 0) = true := by decide
/-- One 16-byte and one 32-byte descriptor that decode; the second is of an immediate kind. -/
theorem test_witness_descriptor :
    decode Config.default (.descriptor (slotOf 0x00000C10 0 0x11000080 0) .zeros)
      = .ok (.outputLastSkip ⟨0, 0, 0, 3, 0⟩ 0 0x80000011 0) ∧
    decode Config.default (.descriptor (slotOf 0x08000002 0x03000080 0 0) (slotOf 0x00020090 0x9002FFFF 0 0))
      = .ok (.outputMoreImmediate ⟨0, 0, 0, 0, 0⟩ 8 0x80000003 0 0 0x00020090 0x9002FFFF .zeros .zeros) ∧
    selectKind Config.default (controlFields (unhdr32 Config.default (slotOf 0x08000002 0x03000080 0 0).w0))
      = .outputMoreImmediate := ⟨rfl, rfl, rfl⟩
/-- Two states that differ in all but the configuration and the next request. -/
theorem test_witness_alone :
    State.cfg ⟨Config.default, [failing, failing], none⟩ =
      State.cfg ⟨Config.default, [failing], some (.ok .none (.word 7))⟩ ∧
    State.requests ⟨Config.default, [failing, failing], none⟩ = failing :: [failing] ∧
    State.requests ⟨Config.default, [failing], some (.ok .none (.word 7))⟩ = failing :: [] := ⟨rfl, rfl, rfl⟩
/-- A failed request with one after it, for the two statements on errors. -/
theorem test_witness_error :
    State.requests ⟨Config.default, [failing, .request 0x05 {}], none⟩ = failing :: .request 0x05 {} :: [] ∧
    step ⟨Config.default, [failing, .request 0x05 {}], none⟩
      = .next ⟨Config.default, [.request 0x05 {}], some (.error (.fieldOverflow 0x10000))⟩ := ⟨rfl, rfl⟩
/-- The invariant holds of a state with a response, and a step from it gives a next state. -/
theorem test_witness_invariant :
    Inv ⟨Config.default, [failing], some (.error (.illegalOp 0x12))⟩ ∧
    step ⟨Config.default, [failing], some (.error (.illegalOp 0x12))⟩
      = .next ⟨Config.default, [], some (.error (.fieldOverflow 0x10000))⟩ :=
  ⟨fun r h => by cases h; show 0x12 ≤ (0x12 : BitVec 5).toNat; decide, rfl⟩
/-- The three ways an operation fails. -/
theorem test_witness_failures :
    exec (.encOm 0x10000 0 0 0 0) State.reset
      = .next { State.reset with response := some (.error (.fieldOverflow 0x10000)) } ∧
    exec (.encOls 1 0 0 0 0) State.reset
      = .next { State.reset with response := some (.error (.misalignedAddress 1)) } ∧
    exec (.encOm 0 4 0 0 0) { State.reset with cfg := checkingConfig }
      = .next { State.reset with cfg := checkingConfig, response := some (.error (.misalignedAddress 4)) } :=
  ⟨rfl, rfl, rfl⟩
theorem test_witness_orders :
    Config.default.hdrOrder = .littleEndian ∧ Config.default.immOrder = .bigEndian ∧
    swappedConfig.hdrOrder = .bigEndian ∧ swappedConfig.immOrder = .littleEndian := ⟨rfl, rfl, rfl, rfl⟩
theorem test_witness_count :
    (0xFFFF : Word).toNat ≤ 0xFFFF ∧ 0xFFFF < (0x10000 : Word).toNat ∧ 0xFFFF < (0xFFFFFFFF : Word).toNat := by decide
/-- Below the base, at the base, and on either side of a slot from the base. -/
theorem test_witness_idx :
    (0x7FFFFFFF : Word).toNat / 16 * 16 < (0x80000000 : Word).toNat ∧
    (0x80000000 : Word).toNat ≤ (0x8000000F : Word).toNat / 16 * 16 ∧
    ((0x8000000F : Word).toNat / 16 * 16 - (0x80000000 : Word).toNat) % 16 = 0 ∧
    (0x80000001 : Word).toNat ≤ (0x80000010 : Word).toNat / 16 * 16 ∧
    ((0x80000010 : Word).toNat / 16 * 16 - (0x80000001 : Word).toNat) % 16 ≠ 0 := by decide
theorem test_witness_slot :
    Aligned 0xFFFFFFF0 ∧ slotAddress 0xFFFFFFF0 0 < 2 ^ 32 ∧ Aligned 0 ∧ slotAddress 0 0xFFFFFFF < 2 ^ 32 := by
  unfold Aligned; decide
theorem test_witness_truncated : Aligned 0x80000200 ∧ 16 ≤ (16 : Word).toNat ∧ 16 ≤ (17 : Word).toNat := by
  unfold Aligned; decide
/-- The hypotheses of each clause of the encoders' statements, at the edges of a count and of a slot, under one
configuration that checks data addresses and one that does not. -/
theorem test_witness_encoders :
    checkingConfig.placesDistinct = true ∧ Config.default.placesDistinct = true ∧
    (0xFFFF : Word).toNat ≤ 0xFFFF ∧ 0xFFFF < (0x10000 : Word).toNat ∧
    Aligned 0x80000000 ∧ Aligned 0 ∧ ¬ Aligned 0x80000001 ∧ ¬ Aligned 0x8000000F ∧
    DataAllowed checkingConfig 0x10 ∧ ¬ DataAllowed checkingConfig 0x0F ∧ DataAllowed Config.default 0x0F ∧
    State.reset.cfg = Config.default := by
  unfold DataAllowed Aligned; decide
theorem test_witness_default_config : State.reset.cfg = Config.default := rfl
/-- A successful `ENC.OL` with count 0. -/
theorem test_witness_encOl_zero :
    State.reset.cfg.placesDistinct = true ∧ State.reset.cfg.wellFormed = true ∧
    exec (.encOl 0 0x90000000 0x80000000 2 0 0 0) State.reset
      = .next { State.reset with
          response := some (.ok .none (.bytes16 (slotOf 0x00000C10 0x00000090 0x02000080 0))) } := ⟨rfl, rfl, rfl⟩
theorem test_witness_selection :
    Config.default.pairsDistinct = true ∧ ¬ AllFill (slotOf 0xDEDEDEDE 0xDEDEDEDE 0xDEDEDEDE 0xDEDEDEDF) ∧
    ¬ AllFill .zeros := by unfold AllFill; decide
theorem test_witness_fill :
    AllFill (slotOf 0xDEDEDEDE 0xDEDEDEDE 0xDEDEDEDE 0xDEDEDEDE) := by unfold AllFill; decide
/-- Each of the four 16-byte encoders succeeds, on a null and on a non-null target. -/
theorem test_witness_read_back :
    State.reset.cfg.wellFormed = true ∧
    exec (.encSv 0xBEEF 0x90001000 0 4 0 0 0) State.reset
      = .next { State.reset with
          response := some (.ok .none (.bytes16 (slotOf 0xEFBE0086 0x00100090 0x04000000 0))) } ∧
    exec (.encOm 32 0x90000100 0 0 0) State.reset
      = .next { State.reset with
          response := some (.ok .none (.bytes16 (slotOf 0x20000000 0x00010090 0 0))) } ∧
    exec (.encOl 64 0x90000240 0x80000000 3 0 3 0) State.reset
      = .next { State.reset with
          response := some (.ok .none (.bytes16 (slotOf 0x40003C10 0x40020090 0x03000080 0))) } ∧
    exec (.encOls 0 0 0 0 0) State.reset
      = .next { State.reset with response := some (.ok .none (.bytes16 (slotOf 0x00000C10 0 0 0))) } :=
  ⟨rfl, rfl, rfl, rfl, rfl⟩
/-- Both 32-byte encoders succeed. -/
theorem test_witness_read_back_immediate :
    State.reset.cfg.wellFormed = true ∧
    exec (.encOmi 0x00020090 0x9002FFFF 0x80000000 3 0 0 0) State.reset
      = .next { State.reset with response := some (.ok .none (.bytes32
          ⟨slotOf 0x08000002 0x03000080 0 0, slotOf 0x00020090 0x9002FFFF 0 0⟩)) } ∧
    exec (.encOli 0x00020090 0x9002FFFF 0x80000000 2 1 3 0) State.reset
      = .next { State.reset with response := some (.ok .none (.bytes32
          ⟨slotOf 0x08003C1A 0x02000080 0 0, slotOf 0x00020090 0x9002FFFF 0 0⟩)) } := ⟨rfl, rfl, rfl⟩
/-- A terminal control word with and without a count, and a status word written back at its place. -/
theorem test_witness_write_back :
    Config.default.wellFormed = true ∧ (0x103C0040 : Word).extractLsb' 28 4 = 1 ∧
    (0x103C0040 : Word).extractLsb' 24 3 = Config.default.keyStandard ∧ (0x100C0000 : Word).extractLsb' 28 4 = 1 ∧
    (0x100C0000 : Word).extractLsb' 24 3 = Config.default.keyStandard ∧
    (0x90000240 : Word) = (if Config.default.wStatus = .w1 then 0x8411ABCD else 0x90000240) ∧
    (0x80000003 : Word) = (if Config.default.wStatus = .w2 then 0x8411ABCD else 0x80000003) ∧
    (0x8411ABCD : Word) = (if Config.default.wStatus = .w3 then 0x8411ABCD else 0) := by decide
theorem test_witness_null :
    (1 : Word).toNat % 16 ≠ 0 ∧ (15 : Word).toNat % 16 ≠ 0 ∧ (17 : Word).toNat % 16 ≠ 0 := by decide
theorem test_witness_assembled :
    (assembled [.ok .none (.bytes16 .zeros), .error (.illegalOp 0x12),
      .ok .none (.bytes32 ⟨.zeros, .zeros⟩)]).length = 48 := by
  decide

end Sys2Proof.Tests
end

section
/-! PROOFS. Reserved selectors (rule R53). -/

namespace Sys2Proof.Proofs

open Sys2Proof.Machine Sys2Proof.Laws

/-- A selector above the operation map's last row is rejected by name: every row's selector is below `0x12`. -/
theorem decodeRequest_reserved {op : BitVec 5} (h : 0x12 ≤ op.toNat) (p : Ports) :
    decodeRequest op p = .error (.reservedSelector op) := by
  unfold decodeRequest
  split
  any_goals omega
  rfl

/-- A step on an input that does not decode answers it and takes it off the requester's side, nothing else. -/
theorem step_of_decode_error {s : State} {inp : Input} {rest : List Input} {e : DecodeError}
    (hr : s.requests = inp :: rest) (hd : decode s.cfg inp = .error e) :
    step s = .next { s with requests := rest, response := some (undecodedResponse s.cfg e) } := by
  simp only [step, hr, hd, reply_eq]

/-- Settles O4: a reserved selector does not decode, and the step answers it by name. -/
theorem reservedSelectorAnswersIllegalOp : Obligations.ReservedSelectorAnswersIllegalOp := by
  intro s op p rest hop hr
  have hd : decode s.cfg (.request op p) = .error (.reservedSelector op) := decodeRequest_reserved hop p
  exact ⟨.error (.illegalOp op), step_of_decode_error hr hd, rfl, rfl, rfl, rfl, rfl⟩

end Sys2Proof.Proofs
end

section
/-! PROOFS. The control word operations (rules R60, R61). -/

namespace Sys2Proof.Proofs

open Sys2Proof.Machine Sys2Proof.Laws Sys2Proof.Safety

/-- A run of bits of a word as arithmetic on the word's value. -/
theorem toNat_extractLsb'_eq_div_mod (v : Word) (start len : Nat) :
    (v.extractLsb' start len).toNat = v.toNat / 2 ^ start % 2 ^ len := by
  rw [BitVec.extractLsb'_toNat, Nat.shiftRight_eq_div_pow]

/-- The fields of the word rule R60 forms are the ones it was formed from. -/
theorem controlFields_controlWord (cmd : BitVec 4) (s : BitVec 1) (key : BitVec 3) (i b w : BitVec 2)
    (n : BitVec 16) : controlFields (controlWord cmd s key i b w n) = ⟨cmd, s, key, i, b, w, n⟩ := by
  rw [controlWord_eq_placed, controlFields_placed, variantFields]

/-- The word rule R60 forms leaves bits 23:22 zero. -/
theorem reservedBits_controlWord (cmd : BitVec 4) (s : BitVec 1) (key : BitVec 3) (i b w : BitVec 2)
    (n : BitVec 16) : reservedBits (controlWord cmd s key i b w n) = 0 := by
  rw [controlWord_eq_placed, reservedBits_placed]

/-- A control word is told by its seven fields and its reserved bits. -/
theorem isControlWord_iff {word : Word} {cmd : BitVec 4} {s : BitVec 1} {key : BitVec 3} {i b w : BitVec 2}
    {n : BitVec 16} : IsControlWord word cmd s key i b w n ↔
      controlFields word = ⟨cmd, s, key, i, b, w, n⟩ ∧ reservedBits word = 0 := by
  simp only [IsControlWord, controlFields, reservedBits, Fields.mk.injEq]
  tauto

/-- `controlWord` forms a control word with the given fields. -/
theorem isControlWord_controlWord (cmd : BitVec 4) (s : BitVec 1) (key : BitVec 3) (i b w : BitVec 2)
    (n : BitVec 16) : IsControlWord (controlWord cmd s key i b w n) cmd s key i b w n :=
  isControlWord_iff.mpr ⟨controlFields_controlWord .., reservedBits_controlWord ..⟩

/-- A count in range keeps its value in its low 16 bits. -/
theorem toNat_lowHalf_of_le {n : Word} (h : n.toNat ≤ 0xFFFF) : (n.extractLsb' 0 16).toNat = n.toNat := by
  rw [toNat_extractLsb'_eq_div_mod]
  omega

section CtlEnc

variable (cmd : BitVec 4) (s : BitVec 1) (key : BitVec 3) (i b w : BitVec 2) {n : Word} (st : State)

/-- `CTL.ENC` of a count in range answers the packed word, with no flag. -/
theorem exec_ctlEnc_of_le (h : n.toNat ≤ 0xFFFF) :
    exec (.ctlEnc cmd s key i b w n) st = .next { st with
      response := some (.ok .none (.word (controlWord cmd s key i b w (n.extractLsb' 0 16)))) } := by
  obtain ⟨-, hr⟩ | ⟨hn, -⟩ := rangeError_cases n
  · simp only [exec, execCtlEnc, hr, checked_none_cons, checked_nil]
  · omega

/-- `CTL.ENC` of a count out of range answers the error alone. -/
theorem exec_ctlEnc_of_lt (h : 0xFFFF < n.toNat) :
    exec (.ctlEnc cmd s key i b w n) st =
      .next { st with response := some (.error (.fieldOverflow n)) } := by
  obtain ⟨hn, -⟩ | ⟨-, hr⟩ := rangeError_cases n
  · omega
  · simp only [exec, execCtlEnc, hr, checked_some_cons]

end CtlEnc

/-- `RSVD_NONZERO` of a word by the value of its bits 23:22. -/
theorem rsvdFlag_reservedBits (word : Word) :
    rsvdFlag (reservedBits word) = decide (word.toNat / 2 ^ 22 % 4 ≠ 0) := by
  have h : (reservedBits word).toNat = word.toNat / 2 ^ 22 % 4 := toNat_extractLsb'_eq_div_mod word 22 2
  rw [rsvdFlag_eq, ← h]
  exact decide_eq_decide.mpr (not_congr BitVec.toNat_inj.symm)

/-- `CTL.DEC` answers every word with its fields and its reserved bits, flagged by their value. -/
theorem exec_ctlDec (word : Word) (st : State) :
    exec (.ctlDec word) st = .next { st with
      response := some (.ok { rsvdNonzero := decide (word.toNat / 2 ^ 22 % 4 ≠ 0) }
        (.fields (controlFields word) (reservedBits word))) } := by
  simp only [exec, execCtlDec, succeed_eq, rsvdFlag_reservedBits]

/-- The command takes the top bits of a word: nothing stands above it. -/
theorem toNat_controlFields_cmd (word : Word) : (controlFields word).cmd.toNat = word.toNat / 2 ^ 28 := by
  have h : (controlFields word).cmd.toNat = word.toNat / 2 ^ 28 % 2 ^ 4 := toNat_extractLsb'_eq_div_mod word 28 4
  have hlt := word.isLt
  omega

/-- The count takes the bottom bits of a word: nothing stands below it. -/
theorem toNat_controlFields_reqCount (word : Word) :
    (controlFields word).reqCount.toNat = word.toNat % 2 ^ 16 := by
  have h : (controlFields word).reqCount.toNat = word.toNat / 2 ^ 0 % 2 ^ 16 :=
    toNat_extractLsb'_eq_div_mod word 0 16
  rwa [pow_zero, Nat.div_one] at h

/-- Settles O20: the word `CTL.ENC` forms has every field at its place, by the two cases of the range check. -/
theorem ctlEncPacksTheControlWord : Obligations.CtlEncPacksTheControlWord := by
  intro cmd s key i b w n st
  refine ⟨fun _ => rfl, fun hle => ?_, fun hlt => exec_ctlEnc_of_lt cmd s key i b w st hlt⟩
  exact ⟨_, _, exec_ctlEnc_of_le cmd s key i b w st hle, isControlWord_controlWord .., toNat_lowHalf_of_le hle⟩

/-- Settles O21: the answer of `CTL.DEC` carries the fields of the word, each a run of its bits. -/
theorem ctlDecReadsTheFields : Obligations.CtlDecReadsTheFields := by
  intro word st
  refine ⟨fun _ => rfl, controlFields word, reservedBits word, exec_ctlDec word st, toNat_controlFields_cmd word,
    ?s, ?key, ?i, ?b, ?w, toNat_controlFields_reqCount word⟩
  case s => exact toNat_extractLsb'_eq_div_mod word 27 1
  case key => exact toNat_extractLsb'_eq_div_mod word 24 3
  case i => exact toNat_extractLsb'_eq_div_mod word 20 2
  case b => exact toNat_extractLsb'_eq_div_mod word 18 2
  case w => exact toNat_extractLsb'_eq_div_mod word 16 2

end Sys2Proof.Proofs
end

section
/-! PROOFS. The pointer operations (rules R70 to R77). -/

namespace Sys2Proof.Proofs

open Sys2Proof.Machine Sys2Proof.Laws

/-- A natural below `2^32` keeps its value as a word. -/
theorem toNat_word_ofNat_of_lt {n : Nat} (h : n < 2 ^ 32) : (BitVec.ofNat 32 n).toNat = n := by
  rw [BitVec.toNat_ofNat, Nat.mod_eq_of_lt h]

/-- `PTR.PACK` answers the packed word, with no flag and no error, whatever the operands. -/
theorem exec_ptrPack (addr z : Word) (st : State) :
    exec (.ptrPack addr z) st = .next { st with response := some (.ok .none (.word (pack addr z))) } := by
  simp only [exec, execPtrPack, succeed_eq]

/-- Settles O24: the packed word is rule R70's formula, the rounded address over the remainder of Z. -/
theorem ptrPackMasksBothHalves : Obligations.PtrPackMasksBothHalves := fun addr z st =>
  ⟨fun _ => rfl, pack addr z, exec_ptrPack addr z st, rfl, toNat_pack addr z⟩

/-- `Z_MISMATCH` compares the pointer's Z with the whole of `trueZ`. -/
theorem zMismatchFlag_eq (word trueZ : Word) :
    zMismatchFlag word trueZ = decide (word.toNat % 16 ≠ trueZ.toNat) := by
  have hz : (unpackZ word).setWidth 32 = trueZ ↔ word.toNat % 16 = trueZ.toNat := by
    rw [← BitVec.toNat_inj, BitVec.toNat_setWidth_of_le (by decide), toNat_unpackZ]
  rw [zMismatchFlag, Bool.eq_iff_iff, bne_iff_ne, decide_eq_true_iff]
  exact not_congr hz

/-- `PTR.CHECK` answers both halves, flagged by the comparison of Z with `trueZ`. -/
theorem exec_ptrCheck (word trueZ : Word) (st : State) :
    exec (.ptrCheck word trueZ) st = .next { st with response := some (.ok
      { zMismatch := decide (word.toNat % 16 ≠ trueZ.toNat) }
      (.pointer (unpackAddr word) (unpackZ word))) } := by
  simp only [exec, execPtrCheck, succeed_eq, zMismatchFlag_eq]

/-- Settles O27: both halves are in the answer whether or not Z is the true one. -/
theorem ptrCheckFlagsAWrongZ : Obligations.PtrCheckFlagsAWrongZ := fun word trueZ st =>
  ⟨fun _ => rfl, unpackAddr word, unpackZ word, exec_ptrCheck word trueZ st, toNat_unpackAddr word,
    toNat_unpackZ word⟩

/-- `PTR.CLASS` answers the class, and its flags say which class it is. -/
theorem exec_ptrClass (word : Word) (st : State) :
    exec (.ptrClass word) st = .next { st with response := some (.ok
      { stop := decide (word.toNat % 16 = 0),
        nullNonzeroZ := decide (word.toNat % 16 ≠ 0 ∧ word.toNat / 16 = 0) }
      (.ptrClass (classify word))) } := by
  simp only [exec, execPtrClass, succeed_eq, pointerFlags, stopFlag_eq, nullFlag_eq]

/-- Settles O28, by the three classes: Z zero, Z alone not zero, and neither half zero. -/
theorem ptrClassTellsStopNullAndValid : Obligations.PtrClassTellsStopNullAndValid := by
  intro word st
  refine ⟨fun _ => rfl, ?_⟩
  rw [exec_ptrClass, classify_eq]
  by_cases hz : word.toNat % 16 = 0
  · simp [hz]
  · by_cases ha : word.toNat / 16 = 0
    · simp [hz, ha]
    · simp [hz, ha, Flags.none]

/-- The slots that any 32-bit number of bytes takes are counted by a word. -/
theorem slotsFor_lt (n : Word) : slotsFor n.toNat < 2 ^ 32 := by
  have hn := n.isLt
  unfold slotsFor Config.slotBytes
  omega

/-- `ZVAL` answers the number of slots, with no flag. -/
theorem exec_zval (totalBytes : Word) (st : State) :
    exec (.zval totalBytes) st = .next { st with
      response := some (.ok .none (.zValue (BitVec.ofNat 32 (slotsFor totalBytes.toNat)))) } := by
  simp only [exec, execZval, succeed_eq]

/-- Settles O29: the ceiling fits the result, so nothing of it is cut off. -/
theorem zvalIsTheCeiling : Obligations.ZvalIsTheCeiling := fun totalBytes st =>
  ⟨fun _ => rfl, _, exec_zval totalBytes st, toNat_word_ofNat_of_lt (slotsFor_lt totalBytes)⟩

/-- `OUT_OF_RANGE` compares the rounded pointer with the base. -/
theorem outOfRangeFlag_eq (ptr base : Word) :
    outOfRangeFlag ptr base = decide (ptr.toNat / 16 * 16 < base.toNat) := by
  rw [outOfRangeFlag, toNat_unpackAddr]

/-- `BASE_MISALIGNED` tests the offset of a pointer that is not below the base. -/
theorem baseMisalignedFlag_eq (ptr base : Word) :
    baseMisalignedFlag ptr base =
      decide (base.toNat ≤ ptr.toNat / 16 * 16 ∧ (ptr.toNat / 16 * 16 - base.toNat) % 16 ≠ 0) := by
  rw [Bool.eq_iff_iff]
  simp [baseMisalignedFlag, outOfRangeFlag_eq, toNat_unpackAddr, Config.slotBytes]

section IdxResolve

variable {ptr base : Word} (st : State)

/-- A pointer not below the base is not out of range. -/
theorem outOfRangeFlag_of_le (h : base.toNat ≤ ptr.toNat / 16 * 16) : outOfRangeFlag ptr base = false := by
  simpa [outOfRangeFlag_eq] using h

/-- `IDX.RESOLVE` of a pointer below the base answers its flag and no index. -/
theorem exec_idxResolve_of_lt (h : ptr.toNat / 16 * 16 < base.toNat) :
    exec (.idxResolve ptr base) st =
      .next { st with response := some (.ok { outOfRange := true } (.index none)) } := by
  have ho : outOfRangeFlag ptr base = true := by simpa [outOfRangeFlag_eq] using h
  have hm : baseMisalignedFlag ptr base = false := by simp [baseMisalignedFlag, ho]
  simp [exec, execIdxResolve, resolveIndex, succeed_eq, ho, hm]

/-- `IDX.RESOLVE` of a pointer between two slots of the base answers its flag and no index. -/
theorem exec_idxResolve_of_offset_ne (h : base.toNat ≤ ptr.toNat / 16 * 16)
    (hne : (ptr.toNat / 16 * 16 - base.toNat) % 16 ≠ 0) :
    exec (.idxResolve ptr base) st =
      .next { st with response := some (.ok { baseMisaligned := true } (.index none)) } := by
  have hm : baseMisalignedFlag ptr base = true := by simp [baseMisalignedFlag_eq, h, hne]
  simp [exec, execIdxResolve, resolveIndex, succeed_eq, outOfRangeFlag_of_le h, hm]

/-- `IDX.RESOLVE` of a pointer to a slot of the base answers the slot's number, with no flag. -/
theorem exec_idxResolve_of_offset_eq (h : base.toNat ≤ ptr.toNat / 16 * 16)
    (he : (ptr.toNat / 16 * 16 - base.toNat) % 16 = 0) :
    exec (.idxResolve ptr base) st = .next { st with response := some (.ok .none
      (.index (some (BitVec.ofNat 32 ((ptr.toNat / 16 * 16 - base.toNat) / 16))))) } := by
  have hm : baseMisalignedFlag ptr base = false := by simp [baseMisalignedFlag_eq, he]
  simp [exec, execIdxResolve, resolveIndex, succeed_eq, outOfRangeFlag_of_le h, hm, toNat_unpackAddr,
    Config.slotBytes, Flags.none]

end IdxResolve

/-- Settles O30, by the three outcomes: below the base, between two slots, and at a slot. -/
theorem idxResolveIndexesOrFlags : Obligations.IdxResolveIndexesOrFlags := by
  intro ptr base st
  refine ⟨fun _ => rfl, exec_idxResolve_of_lt st, exec_idxResolve_of_offset_ne st, fun h he => ?_⟩
  have hlt : (ptr.toNat / 16 * 16 - base.toNat) / 16 < 2 ^ 32 := by
    have hptr := ptr.isLt
    omega
  exact ⟨_, exec_idxResolve_of_offset_eq st h he, toNat_word_ofNat_of_lt hlt⟩

end Sys2Proof.Proofs
end

section
/-! PROOFS. The descriptor encode operations (rules R85 to R92). -/

namespace Sys2Proof.Proofs

open Sys2Proof.Machine Sys2Proof.Laws Sys2Proof.Safety

/-! ## The checks, each way -/

/-- A count of at most 16 bits passes the range check. -/
theorem rangeError_of_le {n : Word} (h : n.toNat ≤ 0xFFFF) : rangeError n = none := by
  obtain ⟨-, hr⟩ | ⟨hn, -⟩ := rangeError_cases n
  · exact hr
  · omega

/-- A count of more than 16 bits fails the range check. -/
theorem rangeError_of_lt {n : Word} (h : 0xFFFF < n.toNat) : rangeError n = some (.fieldOverflow n) := by
  obtain ⟨hn, -⟩ | ⟨-, hr⟩ := rangeError_cases n
  · omega
  · exact hr

/-- A multiple of 16 passes the check on a pointer target. -/
theorem targetError_of_aligned {a : Word} (h : Aligned a) : targetError a = none := by
  obtain ⟨-, hr⟩ | ⟨hn, -⟩ := targetError_cases a
  · exact hr
  · exact absurd h hn

/-- Any other address fails the check on a pointer target. -/
theorem targetError_of_not_aligned {a : Word} (h : ¬ Aligned a) :
    targetError a = some (.misalignedAddress a) := by
  obtain ⟨ha, -⟩ | ⟨-, hr⟩ := targetError_cases a
  · exact absurd ha h
  · exact hr

/-- An allowed data address passes its check. -/
theorem dataError_of_allowed {cfg : Config} {a : Word} (h : DataAllowed cfg a) : dataError cfg a = none := by
  obtain ⟨-, hr⟩ | ⟨⟨hc, hn⟩, -⟩ := dataError_cases cfg a
  · exact hr
  · exact absurd (h hc) hn

/-- A data address that is not allowed fails its check. -/
theorem dataError_of_not_allowed {cfg : Config} {a : Word} (h : ¬ DataAllowed cfg a) :
    dataError cfg a = some (.misalignedAddress a) := by
  obtain ⟨ha, -⟩ | ⟨-, hr⟩ := dataError_cases cfg a
  · exact absurd ha h
  · exact hr

/-- Every configuration allows the data address 0. -/
theorem dataAllowed_zero (cfg : Config) : DataAllowed cfg 0 := fun _ => rfl

/-- What `checked` answers when it succeeds is the result it was given. -/
theorem result_of_checked_eq_ok {checks : List (Option Err)} {v v' : Result} {fl : Flags} {st : State}
    (h : checked checks v st = .next { st with response := some (.ok fl v') }) : v' = v := by
  obtain ⟨e, -, he⟩ | ⟨-, hok⟩ := checked_cases checks v st
  · simp [he] at h
  · simp only [hok, Host.Outcome.next.injEq, State.mk.injEq, Option.some.injEq, Response.ok.injEq] at h
    exact h.2.2.2.symm

/-! ## The words of an encoded descriptor -/

/-- A packed pointer is the pointer word of its operands. -/
theorem isPointerWord_pack (addr z : Word) : IsPointerWord (pack addr z) addr z := toNat_pack addr z

/-- Three words given place by place have at each place the word given for it. -/
theorem at_place (word : WordPlace → Word) {p : WordPlace} {v : Word} (h : word p = v) :
    At p (word .w1) (word .w2) (word .w3) v := by
  cases p <;> exact h

/-- Distinct places differ pairwise. -/
theorem places_ne {cfg : Config} (h : cfg.placesDistinct = true) :
    cfg.wData ≠ cfg.wBranch ∧ cfg.wStatus ≠ cfg.wBranch ∧ cfg.wStatus ≠ cfg.wData := by
  simp only [Config.placesDistinct, Bool.and_eq_true, bne_iff_ne] at h
  obtain ⟨⟨hdb, hds⟩, hbs⟩ := h
  exact ⟨hdb, hbs.symm, hds.symm⟩

/-- Where the three places differ, a 16-byte descriptor holds its control word first, the data address and the pointer at
their places, and an empty status word. -/
theorem standardDescriptor_words {cfg : Config} (h : cfg.placesDistinct = true) (w0 dataAddress pointer : Word) :
    ∃ w1 w2 w3, HoldsWords cfg (standardDescriptor cfg w0 dataAddress pointer) w0 w1 w2 w3 ∧
      At cfg.wData w1 w2 w3 dataAddress ∧ At cfg.wBranch w1 w2 w3 pointer ∧ At cfg.wStatus w1 w2 w3 0 := by
  obtain ⟨hdb, hsb, hsd⟩ := places_ne h
  have hdata : standardWord cfg dataAddress pointer 0 cfg.wData = dataAddress := by simp [standardWord, hdb]
  have hbranch : standardWord cfg dataAddress pointer 0 cfg.wBranch = pointer := by simp [standardWord]
  have hstatus : standardWord cfg dataAddress pointer 0 cfg.wStatus = 0 := by simp [standardWord, hsb, hsd]
  exact ⟨_, _, _, rfl, at_place _ hdata, at_place _ hbranch, at_place _ hstatus⟩

/-- The header of a 32-byte descriptor holds its control word first, the pointer at its place, and zeros. -/
theorem immediateDescriptor_words (cfg : Config) (w0 pointer q0 q1 : Word) :
    ∃ w1 w2 w3, HoldsWords cfg (immediateDescriptor cfg w0 pointer q0 q1).first w0 w1 w2 w3 ∧
      ∀ p : WordPlace, At p w1 w2 w3 (if p = cfg.wImmPtr then pointer else 0) :=
  ⟨_, _, _, rfl, fun _ => at_place (immediateWord cfg pointer) rfl⟩

/-! ## Each operation as its checks and its bytes -/

section Exec

variable (value : BitVec 16) (reqCount dataAddress q0 q1 ptrAddr ptrZ : Word) (s : BitVec 1) (i w : BitVec 2)
  (st : State)

theorem exec_encSv : exec (.encSv value dataAddress ptrAddr ptrZ s i w) st =
    checked [targetError ptrAddr, dataError st.cfg dataAddress]
      (.bytes16 (standardDescriptor st.cfg
        (controlWord st.cfg.cmdStoreValue s st.cfg.keyStore i st.cfg.bNever w value)
        dataAddress (pack ptrAddr ptrZ))) st := rfl

theorem exec_encOm : exec (.encOm reqCount dataAddress s i w) st =
    checked [rangeError reqCount, dataError st.cfg dataAddress]
      (.bytes16 (standardDescriptor st.cfg
        (controlWord st.cfg.cmdOutputMore s st.cfg.keyStandard i st.cfg.bNever w (reqCount.extractLsb' 0 16))
        dataAddress 0)) st := rfl

theorem exec_encOmi : exec (.encOmi q0 q1 ptrAddr ptrZ s i w) st =
    checked [targetError ptrAddr]
      (.bytes32 (immediateDescriptor st.cfg
        (controlWord st.cfg.cmdOutputMore s Config.keyImmediate i st.cfg.bNever w st.cfg.immReq)
        (pack ptrAddr ptrZ) q0 q1)) st := rfl

theorem exec_encOl : exec (.encOl reqCount dataAddress ptrAddr ptrZ s i w) st =
    checked [rangeError reqCount, targetError ptrAddr, dataError st.cfg dataAddress]
      (.bytes16 (standardDescriptor st.cfg
        (controlWord Config.cmdOutputLast s st.cfg.keyStandard i st.cfg.bAlways w (reqCount.extractLsb' 0 16))
        dataAddress (pack ptrAddr ptrZ))) st := rfl

theorem exec_encOli : exec (.encOli q0 q1 ptrAddr ptrZ s i w) st =
    checked [targetError ptrAddr]
      (.bytes32 (immediateDescriptor st.cfg
        (controlWord Config.cmdOutputLast s Config.keyImmediate i st.cfg.bAlways w st.cfg.immReq)
        (pack ptrAddr ptrZ) q0 q1)) st := rfl

theorem exec_encOls : exec (.encOls ptrAddr ptrZ s i w) st =
    checked [targetError ptrAddr]
      (.bytes16 (standardDescriptor st.cfg
        (controlWord Config.cmdOutputLast s st.cfg.keyStandard i st.cfg.bAlways w 0) 0 (pack ptrAddr ptrZ))) st := rfl

/-- `ENC.OL` of no data is `ENC.OLS`, errors included: neither the count nor the data address can fail its check. -/
theorem exec_encOl_zero_zero :
    exec (.encOl 0 0 ptrAddr ptrZ s i w) st = exec (.encOls ptrAddr ptrZ s i w) st := by
  have hn : rangeError 0 = none := rangeError_of_le (by decide)
  rw [exec_encOl, exec_encOls, hn, dataError_of_allowed (dataAllowed_zero st.cfg), checked_none_cons]
  cases targetError ptrAddr with
  | none => simp
  | some e => simp

end Exec

/-! ## What `DESC.DEC` makes of the bytes -/

/-- The fill pattern's first word in either byte order, field by field. -/
theorem controlFields_of_uninitFlag (cfg : Config) {slot : Bytes16} (h : uninitFlag slot = true) :
    controlFields (unhdr32 cfg slot.w0) = ⟨13, 1, 6, 1, 3, 2, 0xDEDE⟩ := by
  obtain rfl : slot = ⟨uninitQuad, uninitQuad, uninitQuad, uninitQuad⟩ := by simpa [uninitFlag] using h
  unfold unhdr32
  cases cfg.hdrOrder <;> decide

/-- A slot whose command is not that of the fill pattern is not the fill pattern. -/
theorem uninitFlag_eq_false_of_cmd_ne {cfg : Config} {slot : Bytes16}
    (h : (controlFields (unhdr32 cfg slot.w0)).cmd ≠ 13) : uninitFlag slot = false :=
  Bool.eq_false_iff.mpr fun hu => h (by rw [controlFields_of_uninitFlag cfg hu])

/-- `DESC.DEC` answers a slot that is not the fill pattern with the kind its control word selects. -/
theorem exec_descDec_of_selectKind {slot : Bytes16} {kind : Kind} {st : State} (hu : uninitFlag slot = false)
    (hk : selectKind st.cfg (controlFields (unhdr32 st.cfg slot.w0)) = kind) (prevValid : BitVec 1) (prev : Bytes16) :
    ∃ fl f rsv size w1 w2 w3, exec (.descDec slot prevValid prev) st =
      .next { st with response := some (.ok fl (.descriptor kind f rsv size w1 w2 w3)) } := by
  subst hk
  simp only [exec, execDescDec, reply_eq, describeSlot, slotReport, hu]
  exact ⟨_, _, _, _, _, _, _, rfl⟩

/-- Where the variants' pairs differ, the pair of `OutputLast` selects it or, with count 0, the skip. -/
theorem selectKind_of_outputLast_pair {cfg : Config} (h : cfg.pairsDistinct = true) {f : Fields}
    (hcmd : f.cmd = Config.cmdOutputLast) (hkey : f.key = cfg.keyStandard) :
    selectKind cfg f = if f.reqCount = 0 then .outputLastSkip else .outputLast := by
  simp only [Config.pairsDistinct, Config.variantPairs, decide_eq_true_eq, List.nodup_cons, List.mem_cons,
    Prod.mk.injEq, not_or] at h
  obtain ⟨⟨-, -, hsv, -⟩, ⟨-, hom, -⟩, -⟩ := h
  have hstore : ¬ (Config.cmdOutputLast = cfg.cmdStoreValue ∧ cfg.keyStandard = cfg.keyStore) :=
    fun ⟨hc, hk⟩ => hsv ⟨hc.symm, hk.symm⟩
  have hmore : Config.cmdOutputLast ≠ cfg.cmdOutputMore := fun hc => hom ⟨hc.symm, trivial⟩
  rw [selectKind, hcmd, hkey, if_neg hstore, if_neg fun hf => hmore hf.1, if_neg fun hf => hmore hf.1,
    if_pos ⟨rfl, rfl⟩]

/-- A 16-byte descriptor's control word, read back from its bytes, has the fields it was formed from. -/
theorem controlFields_standardDescriptor (cfg : Config) (cmd : BitVec 4) (s : BitVec 1) (key : BitVec 3)
    (i b w : BitVec 2) (n : BitVec 16) (dataAddress pointer : Word) :
    controlFields (unhdr32 cfg
      (standardDescriptor cfg (controlWord cmd s key i b w n) dataAddress pointer).w0) = ⟨cmd, s, key, i, b, w, n⟩ := by
  rw [standardDescriptor, header, unhdr32_hdr32, controlFields_controlWord]

/-- Where the variants' pairs differ, `DESC.DEC` reads what `ENC.OL` makes of count 0 as an `OutputLastSkip`. -/
theorem exec_descDec_of_encOl_zero {dataAddress ptrAddr ptrZ : Word} {s : BitVec 1} {i w : BitVec 2} {st : State}
    {d : Bytes16} (h : st.cfg.pairsDistinct = true)
    (hd : exec (.encOl 0 dataAddress ptrAddr ptrZ s i w) st =
      .next { st with response := some (.ok .none (.bytes16 d)) })
    (prevValid : BitVec 1) (prev : Bytes16) :
    ∃ fl f rsv size w1 w2 w3, exec (.descDec d prevValid prev) st =
      .next { st with response := some (.ok fl (.descriptor .outputLastSkip f rsv size w1 w2 w3)) } := by
  rw [exec_encOl] at hd
  have hbytes := Result.bytes16.inj (result_of_checked_eq_ok hd)
  have hf : controlFields (unhdr32 st.cfg d.w0) =
      ⟨Config.cmdOutputLast, s, st.cfg.keyStandard, i, st.cfg.bAlways, w, 0⟩ := by
    rw [hbytes]
    exact controlFields_standardDescriptor ..
  have hcmd : Config.cmdOutputLast ≠ 13 := by decide
  have hu : uninitFlag d = false := uninitFlag_eq_false_of_cmd_ne (cfg := st.cfg) (by rwa [hf])
  have hk : selectKind st.cfg (controlFields (unhdr32 st.cfg d.w0)) = .outputLastSkip := by
    rw [hf]
    exact selectKind_of_outputLast_pair h rfl rfl
  exact exec_descDec_of_selectKind hu hk prevValid prev

/-! ## The obligations -/

/-- Settles O33: the target is checked before the data address, and nothing else of `ENC.SV` can fail. -/
theorem encSvEncodesAStoreValue : Obligations.EncSvEncodesAStoreValue := by
  intro value dataAddress ptrAddr ptrZ s i w st hplaces
  refine ⟨fun _ => rfl, fun ht => ?target, fun ht hd => ?data, fun ht hd => ?bytes⟩
  case target => rw [exec_encSv, targetError_of_not_aligned ht, checked_some_cons]
  case data =>
    rw [exec_encSv, targetError_of_aligned ht, dataError_of_not_allowed hd, checked_none_cons, checked_some_cons]
  case bytes =>
    obtain ⟨w1, w2, w3, hwords, hdata, hbranch, hstatus⟩ := standardDescriptor_words hplaces
      (controlWord st.cfg.cmdStoreValue s st.cfg.keyStore i st.cfg.bNever w value) dataAddress (pack ptrAddr ptrZ)
    refine ⟨_, _, w1, w2, w3, _, ?_, hwords, isControlWord_controlWord .., hdata, hbranch,
      isPointerWord_pack ptrAddr ptrZ, hstatus⟩
    rw [exec_encSv, targetError_of_aligned ht, dataError_of_allowed hd, checked_none_cons, checked_none_cons, checked_nil]

/-- Settles O34: the count is checked before the data address; the corner case of all zeros is evaluated. -/
theorem encOmEncodesAnOutputMore : Obligations.EncOmEncodesAnOutputMore := by
  intro reqCount dataAddress s i w st hplaces
  refine ⟨fun _ => rfl, fun hn => ?range, fun hn hd => ?data, fun hn hd => ?bytes, fun hcfg => ⟨?zeros, ?readBack⟩⟩
  case range => rw [exec_encOm, rangeError_of_lt hn, checked_some_cons]
  case data => rw [exec_encOm, rangeError_of_le hn, dataError_of_not_allowed hd, checked_none_cons, checked_some_cons]
  case bytes =>
    obtain ⟨w1, w2, w3, hwords, hdata, hbranch, hstatus⟩ := standardDescriptor_words hplaces
      (controlWord st.cfg.cmdOutputMore s st.cfg.keyStandard i st.cfg.bNever w (reqCount.extractLsb' 0 16))
      dataAddress 0
    refine ⟨_, _, w1, w2, w3, _, ?_, hwords, isControlWord_controlWord .., toNat_lowHalf_of_le hn, hdata, hbranch,
      hstatus⟩
    rw [exec_encOm, rangeError_of_le hn, dataError_of_allowed hd, checked_none_cons, checked_none_cons, checked_nil]
  case zeros =>
    rw [exec_encOm, rangeError_of_le (by decide), dataError_of_allowed (dataAllowed_zero st.cfg), checked_none_cons,
      checked_none_cons, checked_nil, hcfg]
    rfl
  case readBack =>
    have hk : selectKind st.cfg (controlFields (unhdr32 st.cfg Bytes16.zeros.w0)) = .outputMore := by
      rw [hcfg]
      decide
    exact exec_descDec_of_selectKind (by decide) hk 0 .zeros

/-- Settles O35: the target's alignment is the only check of `ENC.OMI`. -/
theorem encOmiEncodesAnOutputMoreImmediate : Obligations.EncOmiEncodesAnOutputMoreImmediate := by
  intro q0 q1 ptrAddr ptrZ s i w st
  refine ⟨fun _ => rfl, fun ht => ?target, fun ht => ?bytes⟩
  case target => rw [exec_encOmi, targetError_of_not_aligned ht, checked_some_cons]
  case bytes =>
    obtain ⟨w1, w2, w3, hwords, hat⟩ := immediateDescriptor_words st.cfg
      (controlWord st.cfg.cmdOutputMore s Config.keyImmediate i st.cfg.bNever w st.cfg.immReq) (pack ptrAddr ptrZ) q0 q1
    refine ⟨_, _, w1, w2, w3, _, ?_, hwords, isControlWord_controlWord .., isPointerWord_pack ptrAddr ptrZ, hat, rfl⟩
    rw [exec_encOmi, targetError_of_aligned ht, checked_none_cons, checked_nil]

/-- Settles O36: count, target and data address are checked in this order, and the two corner cases of count 0 are
`exec_encOl_zero_zero` and `exec_descDec_of_encOl_zero`. -/
theorem encOlEncodesAnOutputLast : Obligations.EncOlEncodesAnOutputLast := by
  intro reqCount dataAddress ptrAddr ptrZ s i w st hplaces
  refine ⟨fun _ => rfl, fun hn => ?range, fun hn ht => ?target, fun hn ht hd => ?data, fun hn ht hd => ?bytes,
    exec_encOl_zero_zero ptrAddr ptrZ s i w st, fun d prev prevValid hwf hexec => ?readBack⟩
  case range => rw [exec_encOl, rangeError_of_lt hn, checked_some_cons]
  case target =>
    rw [exec_encOl, rangeError_of_le hn, targetError_of_not_aligned ht, checked_none_cons, checked_some_cons]
  case data =>
    rw [exec_encOl, rangeError_of_le hn, targetError_of_aligned ht, dataError_of_not_allowed hd, checked_none_cons,
      checked_none_cons, checked_some_cons]
  case bytes =>
    obtain ⟨w1, w2, w3, hwords, hdata, hbranch, hstatus⟩ := standardDescriptor_words hplaces
      (controlWord Config.cmdOutputLast s st.cfg.keyStandard i st.cfg.bAlways w (reqCount.extractLsb' 0 16))
      dataAddress (pack ptrAddr ptrZ)
    refine ⟨_, _, w1, w2, w3, _, _, ?_, hwords, isControlWord_controlWord .., toNat_lowHalf_of_le hn, hdata, hbranch,
      isPointerWord_pack ptrAddr ptrZ, hstatus⟩
    rw [exec_encOl, rangeError_of_le hn, targetError_of_aligned ht, dataError_of_allowed hd, checked_none_cons,
      checked_none_cons, checked_none_cons, checked_nil]
  case readBack =>
    have hpairs : st.cfg.pairsDistinct = true := by
      simp only [Config.wellFormed, Bool.and_eq_true] at hwf
      obtain ⟨⟨⟨hpairs, -⟩, -⟩, -⟩ := hwf
      exact hpairs
    exact exec_descDec_of_encOl_zero hpairs hexec prevValid prev

/-- Settles O37: the target's alignment is the only check of `ENC.OLI`. -/
theorem encOliEncodesAnOutputLastImmediate : Obligations.EncOliEncodesAnOutputLastImmediate := by
  intro q0 q1 ptrAddr ptrZ s i w st
  refine ⟨fun _ => rfl, fun ht => ?target, fun ht => ?bytes⟩
  case target => rw [exec_encOli, targetError_of_not_aligned ht, checked_some_cons]
  case bytes =>
    obtain ⟨w1, w2, w3, hwords, hat⟩ := immediateDescriptor_words st.cfg
      (controlWord Config.cmdOutputLast s Config.keyImmediate i st.cfg.bAlways w st.cfg.immReq) (pack ptrAddr ptrZ) q0 q1
    refine ⟨_, _, w1, w2, w3, _, ?_, hwords, isControlWord_controlWord .., isPointerWord_pack ptrAddr ptrZ, hat, rfl⟩
    rw [exec_encOli, targetError_of_aligned ht, checked_none_cons, checked_nil]

/-- Settles O38: the target's alignment is the only check of `ENC.OLS`. -/
theorem encOlsEncodesAnOutputLastSkip : Obligations.EncOlsEncodesAnOutputLastSkip := by
  intro ptrAddr ptrZ s i w st hplaces
  refine ⟨fun _ => rfl, fun ht => ?target, fun ht => ?bytes⟩
  case target => rw [exec_encOls, targetError_of_not_aligned ht, checked_some_cons]
  case bytes =>
    obtain ⟨w1, w2, w3, hwords, hdata, hbranch, hstatus⟩ := standardDescriptor_words hplaces
      (controlWord Config.cmdOutputLast s st.cfg.keyStandard i st.cfg.bAlways w 0) 0 (pack ptrAddr ptrZ)
    refine ⟨_, _, w1, w2, w3, _, ?_, hwords, isControlWord_controlWord .., hdata, hbranch,
      isPointerWord_pack ptrAddr ptrZ, hstatus⟩
    rw [exec_encOls, targetError_of_aligned ht, checked_none_cons, checked_nil]

end Sys2Proof.Proofs
end

section
/-! PROOFS. The descriptor decode operation (rules R100, R101, R103, R104). -/

namespace Sys2Proof.Proofs

open Sys2Proof.Machine Sys2Proof.Laws Sys2Proof.Safety

/-! ## The fill pattern -/

/-- Four bytes are the fill word when each of them is the fill byte. -/
theorem eq_uninitQuad_iff (q : Quad) : q = uninitQuad ↔ ∀ x ∈ quadBytes q, x = 0xDE := by
  obtain ⟨b0, b1, b2, b3⟩ := q
  simp [uninitQuad, quadBytes, Config.uninitByte]

/-- `UNINIT` says of a slot's bytes what rule R101 says. -/
theorem uninitFlag_iff_allFill (slot : Bytes16) : uninitFlag slot = true ↔ AllFill slot := by
  obtain ⟨w0, w1, w2, w3⟩ := slot
  simp only [uninitFlag, beq_iff_eq, Bytes16.mk.injEq, eq_uninitQuad_iff, AllFill, bytes16List,
    List.forall_mem_append, and_assoc]

/-- Four fill bytes read the same in either byte order. -/
theorem unhdr32_uninitQuad (cfg : Config) : unhdr32 cfg uninitQuad = 0xDEDEDEDE := by
  unfold unhdr32
  cases cfg.hdrOrder <;> rfl

/-! ## The flags of a slot -/

/-- `SECOND_HALF` reads the key of the preceding slot's control word, where there is a preceding slot. -/
theorem secondHalfFlag_iff (cfg : Config) (prevValid : BitVec 1) (prev : Bytes16) :
    secondHalfFlag cfg prevValid prev = true ↔
      prevValid = 1 ∧ (unhdr32 cfg prev.w0).extractLsb' 24 3 = Config.keyImmediate := by
  simp only [secondHalfFlag, controlFields, Bool.and_eq_true, beq_iff_eq]

/-- A slot's flags for every kind at once: the pointer word's two are those of the word at the kind's pointer place, and
off where it has none. -/
theorem slotFlags_eq (cfg : Config) (kind : Kind) (rsvd uninit secondHalf : Bool) (w1 w2 w3 : Word) :
    slotFlags cfg kind rsvd uninit secondHalf w1 w2 w3 =
      { rsvdNonzero := rsvd, uninit := uninit, secondHalf := secondHalf,
        stop := (pointerPlace cfg kind).any fun p => stopFlag (wordAt p w1 w2 w3),
        nullNonzeroZ := (pointerPlace cfg kind).any fun p => nullFlag (wordAt p w1 w2 w3) } := by
  unfold slotFlags
  cases pointerPlace cfg kind <;> rfl

/-! ## The answer of `DESC.DEC` -/

/-- `DESC.DEC` answers every slot with its report. -/
theorem exec_descDec (slot : Bytes16) (prevValid : BitVec 1) (prev : Bytes16) (st : State) :
    exec (.descDec slot prevValid prev) st =
      .next { st with response := some (describeSlot st.cfg slot prevValid prev) } := rfl

/-- The report on the fill pattern is the same under every configuration, but for `SECOND_HALF`. -/
theorem describeSlot_of_allFill {slot : Bytes16} (h : AllFill slot) (cfg : Config) (prevValid : BitVec 1)
    (prev : Bytes16) :
    describeSlot cfg slot prevValid prev =
      .ok { rsvdNonzero := true, uninit := true, secondHalf := secondHalfFlag cfg prevValid prev }
        (.descriptor .unknown ⟨13, 1, 6, 1, 3, 2, 0xDEDE⟩ 3 16 0xDEDEDEDE 0xDEDEDEDE 0xDEDEDEDE) := by
  have hslot : slot = ⟨uninitQuad, uninitQuad, uninitQuad, uninitQuad⟩ :=
    eq_of_beq ((uninitFlag_iff_allFill slot).mpr h)
  subst hslot
  simp only [describeSlot, unhdr32_uninitQuad]
  rfl

/-! ## The obligations -/

/-- Settles O40: the pointer word's flags by whether the kind has a pointer place, the others each by its own lemma. -/
theorem descDecReportsTheSlot : Obligations.DescDecReportsTheSlot := by
  intro slot prevValid prev st
  refine ⟨fun _ => rfl, _, _, _, _, _, _, _, _, exec_descDec slot prevValid prev st, rfl, rfl, rfl, ?_⟩
  rw [slotFlags_eq]
  refine ⟨rfl, rfl, secondHalfFlag_iff .., uninitFlag_iff_allFill slot, rfl, ?pointer, rfl, rfl, rfl⟩
  case pointer =>
    split
    next p hp => simp [hp, stopFlag_eq, nullFlag_eq]
    next hp => simp [hp]

/-- Settles O45: the report on the fill pattern is evaluated, and `UNINIT` is set for no other slot. -/
theorem fillPatternIsUninitialised : Obligations.FillPatternIsUninitialised := by
  intro slot prevValid prev st
  refine ⟨fun hfill => ?fill, fun hfill => ?other⟩
  case fill =>
    rw [exec_descDec, describeSlot_of_allFill hfill]
    exact ⟨_, _, rfl, rfl, rfl, rfl, rfl⟩
  case other =>
    refine ⟨_, _, exec_descDec slot prevValid prev st, ?_⟩
    rw [slotFlags_eq]
    exact Bool.eq_false_iff.mpr (mt (uninitFlag_iff_allFill slot).mp hfill)

end Sys2Proof.Proofs
end

section
/-! PROOFS. The benign set (rule R118). -/

namespace Sys2Proof.Proofs

open Sys2Proof.Machine Sys2Proof.Laws

/-- The benign set is the three codes of the configuration, whatever their numbers. -/
theorem isBenign_iff (cfg : Config) (eventCode : Byte) :
    isBenign cfg eventCode = true ↔
      eventCode = cfg.evtNoStatus ∨ eventCode = cfg.evtAckComplete ∨ eventCode = cfg.evtAckPending := by
  simp only [isBenign, Bool.or_eq_true, beq_iff_eq, or_assoc]

/-- `EVT.BENIGN` answers whether the code is in the benign set, with no flag and no error. -/
theorem exec_evtBenign (eventCode : Byte) (st : State) :
    exec (.evtBenign eventCode) st =
      .next { st with response := some (.ok .none (.benign (isBenign st.cfg eventCode))) } := by
  simp only [exec, execEvtBenign, succeed_eq]

/-- Settles O55: the answer is membership in the benign set, which holds of the three codes and of no other. -/
theorem evtBenignIsTheBenignSet : Obligations.EvtBenignIsTheBenignSet := fun eventCode st =>
  ⟨fun _ => rfl, isBenign st.cfg eventCode, exec_evtBenign eventCode st, isBenign_iff st.cfg eventCode⟩

end Sys2Proof.Proofs
end

section
/-! PROOFS. Errors leave nothing behind (rules R130, R131): parameters and request alone fix the answer. -/

namespace Sys2Proof.Proofs

open Sys2Proof.Machine Sys2Proof.Laws

/-! ## One reply to one request, from all states of a configuration -/

/-- The checks decide the reply without the state. -/
theorem checked_eq_reply (checks : List (Option Err)) (v : Result) :
    ∃ r, ∀ s : State, checked checks v s = reply r s := by
  cases h : checks.findSome? id with
  | some e => exact ⟨.error e, fun s => by simp only [checked, h, raise]⟩
  | none => exact ⟨.ok .none v, fun s => by simp only [checked, h, succeed]⟩

/-- An instruction does nothing but reply, and two states of one configuration get the same reply: the operations that
check an operand answer through `checked`, the others with a response formed from the operands and the configuration. -/
theorem exec_eq_reply (i : Instr) {s s' : State} (hcfg : s.cfg = s'.cfg) :
    ∃ r, exec i s = reply r s ∧ exec i s' = reply r s' := by
  obtain ⟨cfg, requests, response⟩ := s
  obtain ⟨_, requests', response'⟩ := s'
  subst hcfg
  cases i with
  | ctlEnc | encSv | encOm | encOmi | encOl | encOli | encOls =>
    exact (checked_eq_reply _ _).imp fun r hr => ⟨hr _, hr _⟩
  | _ => exact ⟨_, rfl, rfl⟩

/-- A step takes the next request and replies to it, and two states of one configuration get the same reply. -/
theorem step_eq_reply {s s' : State} {inp : Input} {rest rest' : List Input} (hcfg : s.cfg = s'.cfg)
    (hs : s.requests = inp :: rest) (hs' : s'.requests = inp :: rest') :
    ∃ r, step s = reply r { s with requests := rest } ∧ step s' = reply r { s' with requests := rest' } := by
  obtain ⟨cfg, _, response⟩ := s
  obtain ⟨_, _, response'⟩ := s'
  subst hcfg hs hs'
  simp only [step]
  cases decode cfg inp with
  | ok i => exact exec_eq_reply i rfl
  | error e => exact ⟨_, rfl, rfl⟩

section Pending

variable {s : State} {inp : Input} {rest : List Input} (hs : s.requests = inp :: rest)
include hs

/-- What a step leaves: the state before without its request, with a response. -/
theorem eq_of_step_eq_next {t : State} (h : step s = .next t) :
    ∃ r, t = { s with requests := rest, response := some r } := by
  obtain ⟨r, hr, -⟩ := step_eq_reply rfl hs hs
  rw [hr, reply_eq, Host.Outcome.next.injEq] at h
  exact ⟨r, h.symm⟩

/-- A step does not read the response port, and what stood there is replaced. -/
theorem step_set_response (r : Option Response) : step { s with response := r } = step s := by
  obtain ⟨_, hset, hkept⟩ := step_eq_reply (s := { s with response := r }) (s' := s) rfl hs hs
  rw [hset, hkept, reply_eq, reply_eq]

end Pending

/-! ## The obligations -/

/-- Settles O14: the failed request changes the response port alone, which no step reads. -/
theorem failedRequestLeavesNoTrace : Obligations.FailedRequestLeavesNoTrace := by
  intro s t bad good rest e hs hstep _
  obtain ⟨r, rfl⟩ := eq_of_step_eq_next hs hstep
  refine ⟨?next, ?repeated⟩
  case next => exact step_set_response (s := { s with requests := good :: rest }) rfl (some r)
  case repeated =>
    rw [← hs, ← hstep]
    exact step_set_response hs (some r)

/-- Settles O13: the step only replies, so the response it leaves names the state. -/
theorem errorEntersNothing : Obligations.ErrorEntersNothing := by
  intro s t inp rest e hs hstep herr
  obtain ⟨r, rfl⟩ := eq_of_step_eq_next hs hstep
  obtain rfl : r = .error e := Option.some.inj herr
  exact ⟨rfl, rfl, rfl, rfl, rfl⟩

end Sys2Proof.Proofs
end

section
/-! PROOFS. One answer to each request, and nothing else (rules R10, R12, R32, R157). -/

namespace Sys2Proof.Proofs

open Sys2Proof.Machine Sys2Proof.Laws Sys2Proof.Safety

/-- A step with a request pending takes it and answers it as a codec that has answered nothing before would. -/
theorem step_eq_responseAlone {s : State} {inp : Input} {rest : List Input} (hs : s.requests = inp :: rest) :
    ∃ r, responseAlone s.cfg inp = some r ∧ step s = .next { s with requests := rest, response := some r } := by
  obtain ⟨r, hstep, halone⟩ := step_eq_reply (s := s) (s' := ⟨s.cfg, [inp], none⟩) rfl hs rfl
  exact ⟨r, by simp only [responseAlone, halone, reply_eq], hstep⟩

/-- Settles O9: an instruction does nothing but reply. -/
theorem execAnswersAndChangesNothingElse : Obligations.ExecAnswersAndChangesNothingElse := by
  intro i s
  obtain ⟨r, hr, -⟩ := exec_eq_reply i (s := s) rfl
  exact ⟨r, hr⟩

/-- Settles O10: the answer is the one the request gets alone. -/
theorem stepAnswersEveryRequest : Obligations.StepAnswersEveryRequest := by
  intro s inp rest hs
  obtain ⟨r, -, hstep⟩ := step_eq_responseAlone hs
  exact ⟨r, hstep⟩

/-- Settles O3: without a request the step faults, and with one it answers. -/
theorem stepStopsOnlyWithoutRequest : Obligations.StepStopsOnlyWithoutRequest := by
  intro s
  cases hs : s.requests with
  | nil => simp [step, hs]
  | cons inp rest =>
    obtain ⟨r, -, hstep⟩ := step_eq_responseAlone hs
    simp [hstep]

/-- Settles O11: both states give the answer the request gets alone. -/
theorem responseDependsOnItsRequestAlone : Obligations.ResponseDependsOnItsRequestAlone := by
  intro s t inp restS restT hcfg hs ht
  obtain ⟨r, hr, hstepS⟩ := step_eq_responseAlone hs
  obtain ⟨r', hr', hstepT⟩ := step_eq_responseAlone ht
  obtain rfl : r = r' := Option.some.inj (by rw [← hr, ← hr', hcfg])
  exact ⟨r, hr, hstepS, hstepT⟩

/-- Settles O2: decoding and running are the two parts of a step. -/
theorem stepRunsTheDecodedInstruction : Obligations.StepRunsTheDecodedInstruction := by
  intro s inp rest i hs hd
  simp only [step, hs, hd]

/-! ## Runs -/

/-- Every input gets a response alone. -/
theorem isSome_responseAlone (cfg : Config) (inp : Input) : (responseAlone cfg inp).isSome = true := by
  obtain ⟨r, hr, -⟩ := step_eq_responseAlone (s := ⟨cfg, [inp], none⟩) rfl
  exact Option.isSome_of_eq_some hr

/-- A run of as many steps as there are requests sees each answered as if alone, and stops with none left and the last
response, or where there was no request the one before, on the port. -/
theorem transcript_and_run {reqs : List Input} {s : State} (hs : s.requests = reqs) :
    transcript reqs.length s = reqs.map (responseAlone s.cfg) ∧
    ∃ t, Host.Core.run Sys2Proof.core reqs.length s = .next t ∧ t.cfg = s.cfg ∧ t.requests = [] ∧
      t.response = (transcript reqs.length s).getLast?.getD s.response := by
  induction reqs generalizing s with
  | nil => exact ⟨rfl, s, rfl, rfl, hs, rfl⟩
  | cons inp rest ih =>
    obtain ⟨r, halone, hstep⟩ := step_eq_responseAlone hs
    obtain ⟨htr, t, hrun, hcfg, hreq, hresp⟩ := ih (s := { s with requests := rest, response := some r }) rfl
    have htr' : transcript (rest.length + 1) s = some r :: transcript rest.length
        { s with requests := rest, response := some r } := by simp only [transcript, hstep]
    refine ⟨?_, t, ?_, hcfg, hreq, ?_⟩
    · rw [List.length_cons, htr', htr, List.map_cons, halone]
    · have hcore : Sys2Proof.core.step s = .next { s with requests := rest, response := some r } := hstep
      simpa only [List.length_cons, Host.Core.run, hcore] using hrun
    · rw [List.length_cons, htr', List.getLast?_cons, Option.getD_some]
      exact hresp

/-- Settles O12, by induction on the requests. -/
theorem runAnswersEachRequestAsIfAlone : Obligations.RunAnswersEachRequestAsIfAlone := by
  intro s
  obtain ⟨htr, hrun⟩ := transcript_and_run (s := s) rfl
  refine ⟨htr, fun x hx => ?_, hrun⟩
  rw [htr] at hx
  obtain ⟨inp, -, rfl⟩ := List.mem_map.mp hx
  exact isSome_responseAlone s.cfg inp

end Sys2Proof.Proofs
end

section
/-! PROOFS. The selection of a variant and the whole-descriptor decode (rules R54, R55, R101, R102). -/

namespace Sys2Proof.Proofs

open Sys2Proof.Machine Sys2Proof.Laws Sys2Proof.Safety

/-! ## The selection, read both ways -/

/-- The pairs of rule R41, one by one. -/
theorem mem_variantPairs {cfg : Config} {cmd : BitVec 4} {key : BitVec 3} : (cmd, key) ∈ cfg.variantPairs ↔
    cmd = cfg.cmdStoreValue ∧ key = cfg.keyStore ∨ cmd = cfg.cmdOutputMore ∧ key = cfg.keyStandard ∨
    cmd = cfg.cmdOutputMore ∧ key = Config.keyImmediate ∨ cmd = Config.cmdOutputLast ∧ key = cfg.keyStandard ∨
    cmd = Config.cmdOutputLast ∧ key = Config.keyImmediate := by
  simp only [Config.variantPairs, List.mem_cons, Prod.mk.injEq, List.not_mem_nil, or_false]

/-- Everything the selection can answer, each kind with its row of rule R102's table. -/
theorem selectKind_cases (cfg : Config) (f : Fields) :
    (selectKind cfg f = .storeValue ∧ f.cmd = cfg.cmdStoreValue ∧ f.key = cfg.keyStore) ∨
    (selectKind cfg f = .outputMore ∧ f.cmd = cfg.cmdOutputMore ∧ f.key = cfg.keyStandard) ∨
    (selectKind cfg f = .outputMoreImmediate ∧ f.cmd = cfg.cmdOutputMore ∧ f.key = Config.keyImmediate) ∨
    (selectKind cfg f = .outputLast ∧ f.cmd = Config.cmdOutputLast ∧ f.key = cfg.keyStandard ∧ f.reqCount ≠ 0) ∨
    (selectKind cfg f = .outputLastSkip ∧ f.cmd = Config.cmdOutputLast ∧ f.key = cfg.keyStandard ∧ f.reqCount = 0) ∨
    (selectKind cfg f = .outputLastImmediate ∧ f.cmd = Config.cmdOutputLast ∧ f.key = Config.keyImmediate) ∨
    (selectKind cfg f = .unknown ∧ (f.cmd, f.key) ∉ cfg.variantPairs) := by
  unfold selectKind
  split_ifs <;> simp_all [mem_variantPairs]

/-- The table of rule R102 for the fields `f`: each kind exactly on its row. -/
structure SelectionTable (cfg : Config) (f : Fields) : Prop where
  storeValue : selectKind cfg f = .storeValue ↔ f.cmd = cfg.cmdStoreValue ∧ f.key = cfg.keyStore
  outputMore : selectKind cfg f = .outputMore ↔ f.cmd = cfg.cmdOutputMore ∧ f.key = cfg.keyStandard
  outputMoreImmediate :
    selectKind cfg f = .outputMoreImmediate ↔ f.cmd = cfg.cmdOutputMore ∧ f.key = Config.keyImmediate
  outputLast :
    selectKind cfg f = .outputLast ↔ f.cmd = Config.cmdOutputLast ∧ f.key = cfg.keyStandard ∧ f.reqCount ≠ 0
  outputLastSkip :
    selectKind cfg f = .outputLastSkip ↔ f.cmd = Config.cmdOutputLast ∧ f.key = cfg.keyStandard ∧ f.reqCount = 0
  outputLastImmediate :
    selectKind cfg f = .outputLastImmediate ↔ f.cmd = Config.cmdOutputLast ∧ f.key = Config.keyImmediate
  unknown : selectKind cfg f = .unknown ↔ (f.cmd, f.key) ∉ cfg.variantPairs

/-- Where the five pairs differ, the selection is the table: a row that holds shuts out the others. -/
theorem selectionTable {cfg : Config} (h : cfg.pairsDistinct = true) (f : Fields) : SelectionTable cfg f := by
  have hcases := selectKind_cases cfg f
  simp only [Config.pairsDistinct, Config.variantPairs, decide_eq_true_eq, List.nodup_cons, List.mem_cons,
    Prod.mk.injEq, not_or] at h
  rw [mem_variantPairs] at hcases
  constructor
  case unknown => rw [mem_variantPairs]; grind
  all_goals grind

end Sys2Proof.Proofs
end

section
/-! PROOFS. The selection on the bytes of a slot (rules R51, R55, R101, R102). -/

namespace Sys2Proof.Proofs

open Sys2Proof.Machine Sys2Proof.Laws Sys2Proof.Safety

/-- Settles O41: the report's kind is the selection's, which is the table where the pairs differ. -/
theorem selectionFollowsTheTable : Obligations.SelectionFollowsTheTable := by
  intro slot prevValid prev st hpairs hfill
  have hu : uninitFlag slot = false := Bool.eq_false_iff.mpr (mt (uninitFlag_iff_allFill slot).mp hfill)
  refine ⟨_, _, controlFields (unhdr32 st.cfg slot.w0), _, _, _, _, _, exec_descDec slot prevValid prev st, ?_⟩
  simp only [hu]
  have htable := selectionTable hpairs (controlFields (unhdr32 st.cfg slot.w0))
  exact ⟨htable.storeValue, htable.outputMore, htable.outputMoreImmediate, htable.outputLast, htable.outputLastSkip,
    htable.outputLastImmediate, htable.unknown⟩

/-- The default parameters tell the variants apart. -/
theorem pairsDistinct_default : Config.default.pairsDistinct = true := by decide

/-- Settles O43: the five are counted, and `Unknown` is the last row of the table. -/
theorem fivePairsNameAVariant : Obligations.FivePairsNameAVariant :=
  ⟨by decide, fun f => (selectionTable pairsDistinct_default f).unknown⟩

/-! ## Match and mask -/

/-- A word under the mask of its command and key has these alone. -/
theorem masked_eq_placed (word : Word) :
    word &&& 0xF7000000 = placedControlWord (controlFields word).cmd (controlFields word).key ⟨0, 0, 0, 0, 0⟩ 0 := by
  conv_lhs => rw [← placed_self word]
  refine (placed_masked ..).trans ?_
  simp [placedControlWord]

/-- A word under the wider mask has its count besides. -/
theorem masked_count_eq_placed (word : Word) :
    word &&& 0xF700FFFF = placedControlWord (controlFields word).cmd (controlFields word).key ⟨0, 0, 0, 0, 0⟩
      (controlFields word).reqCount := by
  have hsplit : (0xF700FFFF : Word) = 0xF7000000#32 ||| 0x0000FFFF#32 := by decide
  conv_lhs => rw [← placed_self word, hsplit, BitVec.and_or_distrib_left, placed_masked, placed_low]
  simp [placedControlWord]

/-- Placed words are equal when their selecting fields and counts are. -/
theorem placed_eq_placed_iff {cmd cmd' : BitVec 4} {key key' : BitVec 3} {c : Controls} {n n' : BitVec 16} :
    placedControlWord cmd key c n = placedControlWord cmd' key' c n' ↔ cmd = cmd' ∧ key = key' ∧ n = n' := by
  refine ⟨fun h => ?_, fun ⟨hc, hk, hn⟩ => by rw [hc, hk, hn]⟩
  have hf := congrArg controlFields h
  simp only [controlFields_placed, variantFields, Fields.mk.injEq] at hf
  obtain ⟨hc, -, hk, -, -, -, hn⟩ := hf
  exact ⟨hc, hk, hn⟩

/-- Match and mask on `W0` is the comparison of its command and key with a row's. -/
theorem masked_eq_iff (word : Word) (cmd : BitVec 4) (key : BitVec 3) :
    word &&& 0xF7000000 = placedControlWord cmd key ⟨0, 0, 0, 0, 0⟩ 0 ↔
      (controlFields word).cmd = cmd ∧ (controlFields word).key = key := by
  rw [masked_eq_placed, placed_eq_placed_iff, eq_self_iff_true, and_true]

/-- With the wider mask the count is compared with 0 besides. -/
theorem masked_count_eq_iff (word : Word) (cmd : BitVec 4) (key : BitVec 3) :
    word &&& 0xF700FFFF = placedControlWord cmd key ⟨0, 0, 0, 0, 0⟩ 0 ↔
      (controlFields word).cmd = cmd ∧ (controlFields word).key = key ∧ (controlFields word).reqCount = 0 := by
  rw [masked_count_eq_placed, placed_eq_placed_iff]

/-- Settles O42: each pattern is a row of the table; the rows exclude each other, so their order is free. -/
theorem selectionByMaskAndMatch : Obligations.SelectionByMaskAndMatch := by
  intro word
  have htable := selectionTable pairsDistinct_default (controlFields word)
  rw [show (0x10000000 : Word) = placedControlWord 1 0 ⟨0, 0, 0, 0, 0⟩ 0 by decide,
    show (0x00000000 : Word) = placedControlWord 0 0 ⟨0, 0, 0, 0, 0⟩ 0 by decide,
    show (0x02000000 : Word) = placedControlWord 0 2 ⟨0, 0, 0, 0, 0⟩ 0 by decide,
    show (0x12000000 : Word) = placedControlWord 1 2 ⟨0, 0, 0, 0, 0⟩ 0 by decide,
    show (0x86000000 : Word) = placedControlWord 8 6 ⟨0, 0, 0, 0, 0⟩ 0 by decide]
  simp only [masked_eq_iff, masked_count_eq_iff]
  split_ifs with hs hl hm hmi hli hv
  · exact htable.outputLastSkip.mpr hs
  · exact htable.outputLast.mpr ⟨hl.1, hl.2, fun hn => hs ⟨hl.1, hl.2, hn⟩⟩
  · exact htable.outputMore.mpr hm
  · exact htable.outputMoreImmediate.mpr hmi
  · exact htable.outputLastImmediate.mpr hli
  · exact htable.storeValue.mpr hv
  · refine htable.unknown.mpr fun hmem => ?_
    obtain h | h | h | h | h := mem_variantPairs.mp hmem
    exacts [hv h, hm h, hmi h, hl h, hli h]

/-! ## Encoding undoes decoding -/

/-- A slot's own control word, put together again from its fields, with its own further words, is the slot. -/
theorem descriptor_placed_self {cfg : Config} {slot : Bytes16} {cmd : BitVec 4} {key : BitVec 3} {n : BitVec 16}
    (hc : (controlFields (unhdr32 cfg slot.w0)).cmd = cmd) (hk : (controlFields (unhdr32 cfg slot.w0)).key = key)
    (hn : (controlFields (unhdr32 cfg slot.w0)).reqCount = n) (next : Bytes16) :
    Input.descriptor (encodeSlot cfg (placedControlWord cmd key (controlBits (unhdr32 cfg slot.w0)) n)
      (unhdr32 cfg slot.w1) (unhdr32 cfg slot.w2) (unhdr32 cfg slot.w3)) next = .descriptor slot next := by
  subst hc hk hn
  simp only [encodeSlot, placed_self, hdr32_unhdr32]

/-- Only a slot that is not the fill pattern decodes to an instruction. -/
theorem uninitFlag_of_decode_eq_ok {cfg : Config} {slot next : Bytes16} {i : Instr}
    (h : decode cfg (.descriptor slot next) = .ok i) : uninitFlag slot = false := by
  cases hu : uninitFlag slot with
  | false => rfl
  | true => simp [decode, decodeDescriptor, hu] at h

/-- Settles O8, by the rows of the selection: each decoded instruction keeps its control word in full, and an immediate
one its second slot. -/
theorem encodeUndoesDecodeOfDescriptors : Obligations.EncodeUndoesDecodeOfDescriptors := by
  intro cfg slot next i hdec
  have hu : uninitFlag slot = false := uninitFlag_of_decode_eq_ok hdec
  obtain ⟨hk, hc, hkey⟩ | ⟨hk, hc, hkey⟩ | ⟨hk, hc, hkey⟩ | ⟨hk, hc, hkey, hn⟩ | ⟨hk, hc, hkey, hn⟩ |
    ⟨hk, hc, hkey⟩ | ⟨hk, -⟩ := selectKind_cases cfg (controlFields (unhdr32 cfg slot.w0))
  all_goals
    simp only [decode, decodeDescriptor, hu, hk, Bool.false_eq_true, ↓reduceIte, Except.ok.injEq, reduceCtorEq] at hdec
  all_goals subst hdec
  · exact ⟨rfl, _, descriptor_placed_self hc hkey rfl _, by simp [hk]⟩
  · exact ⟨rfl, _, descriptor_placed_self hc hkey rfl _, by simp [hk]⟩
  · exact ⟨rfl, _, descriptor_placed_self hc hkey rfl _, fun _ => by rw [imm32_unimm32, imm32_unimm32]⟩
  · exact ⟨bne_iff_ne.mpr hn, _, descriptor_placed_self hc hkey rfl _, by simp [hk]⟩
  · exact ⟨rfl, _, descriptor_placed_self hc hkey hn _, by simp [hk]⟩
  · exact ⟨rfl, _, descriptor_placed_self hc hkey rfl _, fun _ => by rw [imm32_unimm32, imm32_unimm32]⟩

end Sys2Proof.Proofs
end

section
/-! PROOFS. Decoding undoes encoding (rules R40, R55), and where a kind holds its pointer (rule R103). -/

namespace Sys2Proof.Proofs

open Sys2Proof.Machine Sys2Proof.Laws Sys2Proof.Safety

/-! ## Well-formed configurations -/

/-- What a well-formed configuration is, by its four parts. -/
theorem wellFormed_iff (cfg : Config) : cfg.wellFormed = true ↔ cfg.pairsDistinct = true ∧
    cfg.keyStore ≠ Config.keyImmediate ∧ (13, 6) ∉ cfg.variantPairs ∧ cfg.placesDistinct = true := by
  simp [Config.wellFormed, Config.storeKeyNotImmediate, Config.fillSpellsNothing, and_assoc]

/-- Under a well-formed configuration a slot whose control word selects a variant is not the fill pattern. -/
theorem uninitFlag_of_selectKind_ne {cfg : Config} (hcfg : cfg.wellFormed = true) {slot : Bytes16}
    (h : selectKind cfg (controlFields (unhdr32 cfg slot.w0)) ≠ .unknown) : uninitFlag slot = false := by
  obtain ⟨hpairs, -, hfill, -⟩ := (wellFormed_iff cfg).mp hcfg
  refine Bool.eq_false_iff.mpr fun hu => h ?_
  rw [controlFields_of_uninitFlag cfg hu]
  exact (selectionTable hpairs _).unknown.mpr hfill

/-! ## A slot's words -/

section Slot

variable (cfg : Config) (w0 w1 w2 w3 : Word)

@[simp] theorem encodeSlot_w0 : (encodeSlot cfg w0 w1 w2 w3).w0 = hdr32 cfg w0 := rfl
@[simp] theorem encodeSlot_w1 : (encodeSlot cfg w0 w1 w2 w3).w1 = hdr32 cfg w1 := rfl
@[simp] theorem encodeSlot_w2 : (encodeSlot cfg w0 w1 w2 w3).w2 = hdr32 cfg w2 := rfl
@[simp] theorem encodeSlot_w3 : (encodeSlot cfg w0 w1 w2 w3).w3 = hdr32 cfg w3 := rfl

end Slot

@[simp] theorem variantFields_reqCount (cmd : BitVec 4) (key : BitVec 3) (c : Controls) (n : BitVec 16) :
    (variantFields cmd key c n).reqCount = n := rfl

/-- A slot encoded from a control word that selects a variant is not the fill pattern. -/
theorem uninitFlag_encodeSlot_placed {cfg : Config} (hcfg : cfg.wellFormed = true) {cmd : BitVec 4} {key : BitVec 3}
    {c : Controls} {n : BitVec 16} (h : selectKind cfg (variantFields cmd key c n) ≠ .unknown) (w1 w2 w3 : Word) :
    uninitFlag (encodeSlot cfg (placedControlWord cmd key c n) w1 w2 w3) = false :=
  uninitFlag_of_selectKind_ne hcfg (by rwa [encodeSlot_w0, unhdr32_hdr32, controlFields_placed])

/-- Settles O7: a request's selector and ports decode by the map; a descriptor's control word selects, by the table, the
variant it was encoded from, and so is not the fill pattern's. -/
theorem decodeUndoesEncode : Obligations.DecodeUndoesEncode := by
  intro cfg i hcfg hi
  obtain ⟨hpairs, -⟩ := (wellFormed_iff cfg).mp hcfg
  have htable (cmd key c n) := selectionTable hpairs (variantFields cmd key c n)
  have hu {cmd key c n kind} (hk : selectKind cfg (variantFields cmd key c n) = kind) (hne : kind ≠ .unknown) :=
    uninitFlag_encodeSlot_placed hcfg (hk.trans_ne hne)
  cases i with
  | storeValue c n =>
    have hk := (htable cfg.cmdStoreValue cfg.keyStore c n).storeValue.mpr ⟨rfl, rfl⟩
    simp [encode, decode, decodeDescriptor, hu hk, hk]
  | outputMore c n =>
    have hk := (htable cfg.cmdOutputMore cfg.keyStandard c n).outputMore.mpr ⟨rfl, rfl⟩
    simp [encode, decode, decodeDescriptor, hu hk, hk]
  | outputMoreImmediate c n =>
    have hk := (htable cfg.cmdOutputMore Config.keyImmediate c n).outputMoreImmediate.mpr ⟨rfl, rfl⟩
    simp [encode, decode, decodeDescriptor, hu hk, hk]
  | outputLast c n =>
    have hk := (htable Config.cmdOutputLast cfg.keyStandard c n).outputLast.mpr ⟨rfl, rfl, bne_iff_ne.mp hi⟩
    simp [encode, decode, decodeDescriptor, hu hk, hk]
  | outputLastImmediate c n =>
    have hk := (htable Config.cmdOutputLast Config.keyImmediate c n).outputLastImmediate.mpr ⟨rfl, rfl⟩
    simp [encode, decode, decodeDescriptor, hu hk, hk]
  | outputLastSkip c =>
    have hk := (htable Config.cmdOutputLast cfg.keyStandard c 0#16).outputLastSkip.mpr ⟨rfl, rfl, rfl⟩
    simp [encode, decode, decodeDescriptor, hu hk, hk]
  | _ => rfl

end Sys2Proof.Proofs
end

section
/-! PROOFS. A slot's report: the pointer word and its flags (rules R100, R103), and descriptors handed over to be read. -/

namespace Sys2Proof.Proofs

open Sys2Proof.Machine Sys2Proof.Laws Sys2Proof.Safety

/-! ## The pointer word of each kind -/

/-- A kind that has a pointer's role at one place and at no other has its pointer there. -/
theorem pointerPlace_eq_some {cfg : Config} {kind : Kind} {p : WordPlace}
    (h : ∀ q, isPointerRole (wordRole cfg kind q) = decide (q = p)) : pointerPlace cfg kind = some p := by
  unfold pointerPlace
  simp only [h]
  cases p <;> rfl

/-- Settles O44: in rule R103's table a kind has the role of a pointer at one place only, or at none. -/
theorem pointerWordByKind : Obligations.PointerWordByKind := by
  intro cfg
  refine ⟨pointerPlace_eq_some fun q => ?_, ?_, pointerPlace_eq_some fun q => ?_, pointerPlace_eq_some fun q => ?_,
    pointerPlace_eq_some fun q => ?_, pointerPlace_eq_some fun q => ?_, rfl⟩
  case refine_2 =>
    have hnone (q : WordPlace) : isPointerRole (wordRole cfg .outputMore q) = false := by
      simp only [wordRole]
      split_ifs <;> rfl
    simp [pointerPlace, hnone]
  all_goals
    simp only [wordRole]
    split_ifs <;> simp_all [isPointerRole]

/-- The word at a place, as a claim and as a function. -/
theorem at_wordAt (p : WordPlace) (w1 w2 w3 : Word) : At p w1 w2 w3 (wordAt p w1 w2 w3) := by
  cases p <;> rfl

/-- The flags of a slot whose kind holds its pointer at `p`: those of the reserved bits, and of the pointer by its halves. -/
theorem slotFlags_of_pointerPlace {cfg : Config} {kind : Kind} {p : WordPlace} (h : pointerPlace cfg kind = some p)
    (rsvd uninit secondHalf : Bool) (w1 w2 w3 : Word) :
    slotFlags cfg kind rsvd uninit secondHalf w1 w2 w3 =
      { rsvdNonzero := rsvd, uninit := uninit, secondHalf := secondHalf,
        stop := decide ((wordAt p w1 w2 w3).toNat % 16 = 0),
        nullNonzeroZ := decide ((wordAt p w1 w2 w3).toNat % 16 ≠ 0 ∧ (wordAt p w1 w2 w3).toNat / 16 = 0) } := by
  rw [slotFlags_eq, h, Option.any_some, Option.any_some, stopFlag_eq, nullFlag_eq]

/-- The flags of a slot whose kind has no pointer. -/
theorem slotFlags_of_no_pointer {cfg : Config} {kind : Kind} (h : pointerPlace cfg kind = none)
    (rsvd uninit secondHalf : Bool) (w1 w2 w3 : Word) :
    slotFlags cfg kind rsvd uninit secondHalf w1 w2 w3 =
      { rsvdNonzero := rsvd, uninit := uninit, secondHalf := secondHalf } := by
  rw [slotFlags_eq, h, Option.any_none, Option.any_none]

/-- `RSVD_NONZERO` by the number of the reserved bits. -/
theorem rsvdFlag_eq_toNat (rsv : BitVec 2) : rsvdFlag rsv = decide (rsv.toNat ≠ 0) := by
  rw [rsvdFlag_eq]
  exact decide_eq_decide.mpr (not_congr BitVec.toNat_inj.symm)

/-! ## Descriptors handed over -/

/-- Settles O56: the three kinds hold their pointer at `W_BRANCH`. -/
theorem pointerVariantsAreReported : Obligations.PointerVariantsAreReported := by
  intro c n w1 w2 w3 st
  obtain ⟨hsv, -, -, hol, -, hols, -⟩ := pointerWordByKind st.cfg
  refine ⟨_, at_wordAt st.cfg.wBranch w1 w2 w3, _, rfl, ?_, ?_, ?_⟩
  · rw [← rsvdFlag_eq_toNat, ← slotFlags_of_pointerPlace hsv]; rfl
  · rw [← rsvdFlag_eq_toNat, ← slotFlags_of_pointerPlace hol]; rfl
  · rw [← rsvdFlag_eq_toNat, ← slotFlags_of_pointerPlace hols]; rfl

/-- Settles O57: an OutputMore has no pointer. -/
theorem outputMoreIsReportedWithoutPointerFlags : Obligations.OutputMoreIsReportedWithoutPointerFlags := by
  intro c n w1 w2 w3 st
  obtain ⟨-, hom, -⟩ := pointerWordByKind st.cfg
  rw [← rsvdFlag_eq_toNat, ← slotFlags_of_no_pointer hom]
  rfl

/-- Settles O58: the two immediate kinds hold their pointer at `W_IMM_PTR`. -/
theorem immediateVariantsAreReported : Obligations.ImmediateVariantsAreReported := by
  intro c n w1 w2 w3 q0 q1 p0 p1 st
  obtain ⟨-, -, homi, -, holi, -⟩ := pointerWordByKind st.cfg
  refine ⟨_, at_wordAt st.cfg.wImmPtr w1 w2 w3, _, rfl, ?_, ?_⟩
  · rw [← rsvdFlag_eq_toNat, ← slotFlags_of_pointerPlace homi]; rfl
  · rw [← rsvdFlag_eq_toNat, ← slotFlags_of_pointerPlace holi]; rfl

/-- A variant read from a slot's own control word is reported as `DESC.DEC` reports the slot with none before it. -/
theorem variantReport_eq_describeSlot {cfg : Config} {slot : Bytes16} {kind : Kind} {cmd : BitVec 4} {key : BitVec 3}
    {n : BitVec 16} (hu : uninitFlag slot = false)
    (hkind : selectKind cfg (controlFields (unhdr32 cfg slot.w0)) = kind)
    (hc : (controlFields (unhdr32 cfg slot.w0)).cmd = cmd) (hk : (controlFields (unhdr32 cfg slot.w0)).key = key)
    (hn : (controlFields (unhdr32 cfg slot.w0)).reqCount = n) :
    variantReport cfg kind cmd key (controlBits (unhdr32 cfg slot.w0)) n (unhdr32 cfg slot.w1) (unhdr32 cfg slot.w2)
      (unhdr32 cfg slot.w3) = describeSlot cfg slot 0 .zeros := by
  subst hkind hc hk hn
  simp only [describeSlot, hu]
  rfl

/-- A step on a slot handed over replies what `DESC.DEC` replies to it with none before it: by the rows of the selection
where it decodes, and by the answer to what does not decode where not. -/
theorem step_descriptor {s : State} {slot next : Bytes16} {rest : List Input}
    (hs : s.requests = .descriptor slot next :: rest) :
    step s = reply (describeSlot s.cfg slot 0 .zeros) { s with requests := rest } := by
  simp only [step, hs, decode, decodeDescriptor]
  cases hu : uninitFlag slot with
  | true => rfl
  | false =>
    obtain ⟨hk, hc, hkey⟩ | ⟨hk, hc, hkey⟩ | ⟨hk, hc, hkey⟩ | ⟨hk, hc, hkey, -⟩ | ⟨hk, hc, hkey, hn⟩ |
      ⟨hk, hc, hkey⟩ | ⟨hk, -⟩ := selectKind_cases s.cfg (controlFields (unhdr32 s.cfg slot.w0))
    all_goals simp only [hk, Bool.false_eq_true, ↓reduceIte]
    · exact congrArg (reply · _) (variantReport_eq_describeSlot hu hk hc hkey rfl)
    · exact congrArg (reply · _) (variantReport_eq_describeSlot hu hk hc hkey rfl)
    · exact congrArg (reply · _) (variantReport_eq_describeSlot hu hk hc hkey rfl)
    · exact congrArg (reply · _) (variantReport_eq_describeSlot hu hk hc hkey rfl)
    · exact congrArg (reply · _) (variantReport_eq_describeSlot hu hk hc hkey hn)
    · exact congrArg (reply · _) (variantReport_eq_describeSlot hu hk hc hkey rfl)
    · rfl

/-- Settles O59: the request's selector is that of `DESC.DEC`. -/
theorem descriptorIsReadAsDescDecReadsIt : Obligations.DescriptorIsReadAsDescDecReadsIt :=
  fun _ _ _ _ => step_descriptor rfl

end Sys2Proof.Proofs
end

section
/-! PROOFS. Legal responses (rules R16, R100, R125): which operation fails and how, and what every step keeps. -/

namespace Sys2Proof.Proofs

open Sys2Proof.Machine Sys2Proof.Laws Sys2Proof.Safety

/-! ## The errors of the checks -/

/-- The range check fails only with a count out of range. -/
theorem rangeError_eq_some {n : Word} {e : Err} (h : rangeError n = some e) : e = .fieldOverflow n ∧ 0xFFFF < n.toNat := by
  obtain ⟨-, hr⟩ | ⟨hn, hr⟩ := rangeError_cases n
  · simp [hr] at h
  · exact ⟨Option.some.inj (h.symm.trans hr), hn⟩

/-- The check on a pointer target fails only with a misaligned one. -/
theorem targetError_eq_some {a : Word} {e : Err} (h : targetError a = some e) :
    e = .misalignedAddress a ∧ ¬ Aligned a := by
  obtain ⟨-, hr⟩ | ⟨ha, hr⟩ := targetError_cases a
  · simp [hr] at h
  · exact ⟨Option.some.inj (h.symm.trans hr), ha⟩

/-- The check on a data address fails only with a misaligned one, where the configuration makes it. -/
theorem dataError_eq_some {cfg : Config} {a : Word} {e : Err} (h : dataError cfg a = some e) :
    e = .misalignedAddress a ∧ ¬ Aligned a ∧ cfg.checkDataAlign = true := by
  obtain ⟨-, hr⟩ | ⟨⟨hc, ha⟩, hr⟩ := dataError_cases cfg a
  · simp [hr] at h
  · exact ⟨Option.some.inj (h.symm.trans hr), ha, hc⟩

/-- An error that `checked` answers is one of its checks'. -/
theorem mem_of_checked_eq_error {checks : List (Option Err)} {v : Result} {s t : State} {e : Err}
    (h : checked checks v s = .next t) (ht : t.response = some (.error e)) : some e ∈ checks := by
  obtain ⟨e', hmem, he⟩ | ⟨-, hok⟩ := checked_cases checks v s
  · rw [he, Host.Outcome.next.injEq] at h
    subst h
    rwa [← Response.error.inj (Option.some.inj ht)]
  · rw [hok, Host.Outcome.next.injEq] at h
    subst h
    simp at ht

/-- Settles O17: the operations that check an operand fail with an error of a check, the others answer a result. -/
theorem onlyEncodersFail : Obligations.OnlyEncodersFail := by
  intro i s t e h ht
  cases i with
  | ctlEnc _ _ _ _ _ _ n =>
    have hn : some e = rangeError n := by simpa using mem_of_checked_eq_error h ht
    exact .inl (rangeError_eq_some hn.symm)
  | encSv _ d p =>
    obtain hp | hd : some e = targetError p ∨ some e = dataError s.cfg d := by
      simpa using mem_of_checked_eq_error h ht
    · obtain ⟨rfl, ha⟩ := targetError_eq_some hp.symm
      exact .inr ⟨p, rfl, ha, .inl rfl⟩
    · obtain ⟨rfl, ha, hc⟩ := dataError_eq_some hd.symm
      exact .inr ⟨d, rfl, ha, .inr ⟨hc, rfl⟩⟩
  | encOm n d =>
    obtain hn | hd : some e = rangeError n ∨ some e = dataError s.cfg d := by
      simpa using mem_of_checked_eq_error h ht
    · exact .inl (rangeError_eq_some hn.symm)
    · obtain ⟨rfl, ha, hc⟩ := dataError_eq_some hd.symm
      exact .inr ⟨d, rfl, ha, hc, rfl⟩
  | encOl n d p =>
    obtain hn | hp | hd : some e = rangeError n ∨ some e = targetError p ∨ some e = dataError s.cfg d := by
      simpa using mem_of_checked_eq_error h ht
    · exact .inl (rangeError_eq_some hn.symm)
    · obtain ⟨rfl, ha⟩ := targetError_eq_some hp.symm
      exact .inr ⟨p, rfl, ha, .inl rfl⟩
    · obtain ⟨rfl, ha, hc⟩ := dataError_eq_some hd.symm
      exact .inr ⟨d, rfl, ha, .inr ⟨hc, rfl⟩⟩
  | encOmi _ _ p | encOli _ _ p | encOls p =>
    have hp : some e = targetError p := by simpa using mem_of_checked_eq_error h ht
    obtain ⟨rfl, ha⟩ := targetError_eq_some hp.symm
    exact .inr ⟨p, rfl, ha, rfl⟩
  | _ =>
    injection h with h
    subst h
    cases ht

/-! ## Legal responses -/

/-- A reply leaves a legal port when the response is legal. -/
theorem inv_of_reply {r : Response} {s t : State} (h : reply r s = .next t) (hr : ResponseLegal s.cfg r) : Inv t := by
  rw [reply_eq, Host.Outcome.next.injEq] at h
  subst h
  intro r' hr'
  rwa [← Option.some.inj hr']

/-- A check that can fail with a legal error alone. -/
def CheckLegal (c : Option Err) : Prop := ∀ e, c = some e → ErrLegal e

/-- The range check fails legally. -/
theorem checkLegal_rangeError (n : Word) : CheckLegal (rangeError n) := fun _ h => by
  obtain ⟨rfl, hn⟩ := rangeError_eq_some h
  exact hn

/-- The check on a pointer target fails legally. -/
theorem checkLegal_targetError (a : Word) : CheckLegal (targetError a) := fun _ h => by
  obtain ⟨rfl, ha⟩ := targetError_eq_some h
  exact ha

/-- The check on a data address fails legally. -/
theorem checkLegal_dataError (cfg : Config) (a : Word) : CheckLegal (dataError cfg a) := fun _ h => by
  obtain ⟨rfl, ha, -⟩ := dataError_eq_some h
  exact ha

/-- An operation that checks its operands leaves a legal port when its checks and its result are legal. -/
theorem inv_of_checked {checks : List (Option Err)} {v : Result} {s t : State} (h : checked checks v s = .next t)
    (hchecks : ∀ c ∈ checks, CheckLegal c) (hv : ResultLegal s.cfg .none v) : Inv t := by
  obtain ⟨e, hmem, hc⟩ | ⟨-, hc⟩ := checked_cases checks v s
  · exact inv_of_reply (r := .error e) (hc.symm.trans h) (hchecks _ hmem e rfl)
  · exact inv_of_reply (r := .ok .none v) (hc.symm.trans h) hv

/-- A slot's size by its key, in the two cases of rule R105. -/
theorem sizeOfKey_cases (key : BitVec 3) : sizeOfKey key = 32 ∧ key = 2 ∨ sizeOfKey key = 16 ∧ key ≠ 2 := by
  unfold sizeOfKey
  split
  next h => exact .inl ⟨rfl, h⟩
  next h => exact .inr ⟨rfl, h⟩

/-- A report on a slot is legal when its kind is `Unknown` for the fill pattern and the selection's otherwise: its pointer
flags are those of one pointer word, or off. -/
theorem slotReport_legal {cfg : Config} {kind : Kind} {f : Fields} {uninit : Bool}
    (hkind : kind = if uninit then .unknown else selectKind cfg f) (rsv : BitVec 2) (secondHalf : Bool)
    (w1 w2 w3 : Word) : ResponseLegal cfg (slotReport cfg kind f rsv uninit secondHalf w1 w2 w3) := by
  obtain ⟨-, hom, -, -, -, -, hunk⟩ := pointerWordByKind cfg
  rw [slotReport, slotFlags_eq]
  refine ⟨⟨rfl, rfl, rfl⟩, rsvdFlag_eq rsv, ?exclusive, sizeOfKey_cases f.key, ?noPointer, fun hu => ?fill,
    fun hu => ?selected⟩
  case exclusive =>
    cases pointerPlace cfg kind with
    | none => simp
    | some p =>
      simp only [Option.any_some, stopFlag_eq, nullFlag_eq, decide_eq_true_eq]
      exact fun ⟨hz, hnz, _⟩ => hnz hz
  case noPointer =>
    rintro (rfl | rfl)
    · rw [hunk]; exact ⟨rfl, rfl⟩
    · rw [hom]; exact ⟨rfl, rfl⟩
  case fill => rwa [show uninit = true from hu, if_pos rfl] at hkind
  case selected => rwa [show uninit = false from hu, if_neg Bool.false_ne_true] at hkind

/-- The report of `DESC.DEC` is legal. -/
theorem describeSlot_legal (cfg : Config) (slot : Bytes16) (prevValid : BitVec 1) (prev : Bytes16) :
    ResponseLegal cfg (describeSlot cfg slot prevValid prev) :=
  slotReport_legal rfl ..

/-- An address half is a multiple of 16. -/
theorem aligned_unpackAddr (word : Word) : Aligned (unpackAddr word) := by
  rw [Aligned, toNat_unpackAddr, Nat.mul_mod_left]

/-- The event code is the transfer status modulo 256. -/
theorem toNat_eventCodeOf (x : BitVec 16) : (eventCodeOf x).toNat = x.toNat % 256 := by
  rw [eventCodeOf, BitVec.extractLsb'_toNat, Nat.shiftRight_zero]

/-- `IDX.RESOLVE` leaves a legal port, by its three outcomes: an index below `2^28`, or one of the two flags. -/
theorem inv_of_idxResolve {ptr base : Word} {s t : State} (h : exec (.idxResolve ptr base) s = .next t) : Inv t := by
  rcases Nat.lt_or_ge (ptr.toNat / 16 * 16) base.toNat with hlt | hge
  · rw [exec_idxResolve_of_lt s hlt] at h
    exact inv_of_reply h ⟨rfl, by decide, by decide, by simp⟩
  · by_cases hoff : (ptr.toNat / 16 * 16 - base.toNat) % 16 = 0
    · rw [exec_idxResolve_of_offset_eq s hge hoff] at h
      refine inv_of_reply h ⟨rfl, by decide, by simp [Flags.none], fun n hn => ?_⟩
      have hptr := ptr.isLt
      rw [← Option.some.inj hn, toNat_word_ofNat_of_lt (by omega)]
      omega
    · rw [exec_idxResolve_of_offset_ne s hge hoff] at h
      exact inv_of_reply h ⟨rfl, by decide, by decide, by simp⟩

/-- The eighteen operations of rule R52, and not the variants of rule R41. -/
def isOperation (i : Instr) : Bool :=
  match i with
  | .storeValue .. | .outputMore .. | .outputMoreImmediate .. | .outputLast .. | .outputLastImmediate ..
  | .outputLastSkip .. => false
  | _ => true

/-- A request decodes to an operation. -/
theorem isOperation_of_decodeRequest {op : BitVec 5} {p : Ports} {i : Instr} (h : decodeRequest op p = .ok i) :
    isOperation i = true := by
  unfold decodeRequest at h
  split at h <;> cases h <;> rfl

/-- An input of the request port that does not decode has a reserved selector. -/
theorem eq_reservedSelector_of_decodeRequest {op : BitVec 5} {p : Ports} {e : DecodeError}
    (h : decodeRequest op p = .error e) : e = .reservedSelector op ∧ 0x12 ≤ op.toNat := by
  unfold decodeRequest at h
  split at h <;> cases h
  refine ⟨rfl, ?_⟩
  simp only [imp_false] at *
  omega

/-- Every operation leaves a legal port. -/
theorem inv_of_operation {i : Instr} (hi : isOperation i = true) {s t : State} (h : exec i s = .next t) : Inv t := by
  cases i with
  | ctlEnc => exact inv_of_checked h (by simp [checkLegal_rangeError]) rfl
  | ctlDec word => exact inv_of_reply h (congrArg (fun b => ({ rsvdNonzero := b } : Flags)) (rsvdFlag_eq _))
  | ptrPack | statEnc | zval | evtBenign => exact inv_of_reply h rfl
  | ptrUnpack word | ptrCheck word => exact inv_of_reply h ⟨aligned_unpackAddr word, rfl, (unpackZ word).isLt⟩
  | ptrClass word =>
    refine inv_of_reply h (?_ : pointerFlags word = _)
    simp only [pointerFlags, stopFlag, nullFlag, beq_eq_decide]
  | idxResolve => exact inv_of_idxResolve h
  | encSv | encOm | encOl | encOls =>
    exact inv_of_checked h (by simp [checkLegal_rangeError, checkLegal_targetError, checkLegal_dataError]) rfl
  | encOmi | encOli => exact inv_of_checked h (by simp [checkLegal_targetError]) ⟨rfl, rfl, rfl⟩
  | descDec => exact inv_of_reply h (describeSlot_legal ..)
  | statDec => exact inv_of_reply h ⟨rfl, toNat_eventCodeOf _⟩
  | storeValue | outputMore | outputMoreImmediate | outputLast | outputLastImmediate | outputLastSkip => cases hi

/-- Settles O15: a request's operation answers legally, a reserved selector is an error, and a descriptor gets the report
of `DESC.DEC`. -/
theorem stepKeepsResponsesLegal : Obligations.StepKeepsResponsesLegal := by
  intro s t _ hstep
  obtain ⟨inp, rest, hs, hcases⟩ := step_cases hstep
  cases inp with
  | descriptor slot next =>
    rw [step_descriptor hs] at hstep
    exact inv_of_reply hstep (describeSlot_legal ..)
  | request op p =>
    obtain ⟨i, hd, hexec⟩ | ⟨e, hd, rfl⟩ := hcases
    · exact inv_of_operation (isOperation_of_decodeRequest hd) hexec
    · obtain ⟨rfl, hop⟩ := eq_reservedSelector_of_decodeRequest hd
      rintro r ⟨⟩
      exact hop

/-- Settles O16: there is no response to be legal. -/
theorem resetHasTheInvariant : Obligations.ResetHasTheInvariant := by
  intro r hr
  simp at hr

end Sys2Proof.Proofs
end

section
/-! PROOFS. The response port and reset (rules R12, R16, R21, R125, R145), and fixed words of the tables. -/

namespace Sys2Proof.Proofs

open Sys2Proof.Machine Sys2Proof.Laws

/-- A bit that is in the byte or not. -/
theorem getLsbD_ite_zero (b : Bool) (x : Byte) (k : Nat) :
    (if b then x else 0).getLsbD k = (b && x.getLsbD k) := by
  cases b <;> simp

/-- Settles O18: each flag is the one byte of the eight that has its bit. -/
theorem responsePortNumbers : Obligations.ResponsePortNumbers := by
  refine ⟨fun f => ?_, fun e => ⟨rfl, rfl, rfl, rfl⟩, fun f v => ⟨rfl, rfl, rfl, rfl⟩,
    fun n a op => ⟨rfl, rfl, rfl, rfl, rfl, ?_⟩⟩
  · simp only [flagBits, BitVec.getLsbD_or, getLsbD_ite_zero]
    simp
  · exact BitVec.toNat_setWidth_of_le (by decide)

/-- Settles O1. -/
theorem resetEmptiesTheResponsePort : Obligations.ResetEmptiesTheResponsePort :=
  ⟨reset_response, reset_requests, reset_cfg, fun _ => ⟨rfl, rfl⟩⟩

/-- Settles O5: a row of the map is read off by its number, and above the last row nothing is. -/
theorem operationMapDecodes : Obligations.OperationMapDecodes := by
  intro cfg p
  refine ⟨rfl, rfl, rfl, rfl, rfl, rfl, rfl, rfl, rfl, rfl, rfl, rfl, rfl, rfl, rfl, rfl, rfl, rfl, fun op hop => ?_⟩
  exact decodeRequest_reserved hop p

/-- Settles O6, by evaluation of fixed words. -/
theorem tableWordsDecode : Obligations.TableWordsDecode := by
  unfold Obligations.TableWordsDecode
  decide

/-- Settles O49, by evaluation of fixed words. -/
theorem fillPatternsDecode : Obligations.FillPatternsDecode := by
  rintro ⟨_, requests, response⟩ rfl
  have hzeros : describeSlot Config.default .zeros 0 .zeros =
      .ok .none (.descriptor .outputMore ⟨0, 0, 0, 0, 0, 0, 0⟩ 0 16 0 0 0) := by decide
  exact ⟨rfl, by rw [exec_descDec, hzeros]⟩

end Sys2Proof.Proofs
end

section
/-! PROOFS. Words as bytes and as fields (rules R25, R42, R115), each way. -/

namespace Sys2Proof.Proofs

open Sys2Proof.Machine Sys2Proof.Laws

/-! ## Byte order -/

/-- A word's bytes, the least significant first. -/
theorem map_toNat_quadBytes_le32 (v : Word) : (quadBytes (le32 v)).map BitVec.toNat =
    [v.toNat % 256, v.toNat / 2 ^ 8 % 256, v.toNat / 2 ^ 16 % 256, v.toNat / 2 ^ 24] := by
  have htop : v.toNat / 2 ^ 24 % 2 ^ 8 = v.toNat / 2 ^ 24 := by
    have hv := v.isLt
    omega
  simp only [quadBytes, le32, List.map_cons, List.map_nil, toNat_extractLsb'_eq_div_mod, htop]
  simp

/-- The other order is the same bytes backwards. -/
theorem map_toNat_quadBytes_be32 (v : Word) : (quadBytes (be32 v)).map BitVec.toNat =
    [v.toNat / 2 ^ 24, v.toNat / 2 ^ 16 % 256, v.toNat / 2 ^ 8 % 256, v.toNat % 256] := by
  rw [show quadBytes (be32 v) = (quadBytes (le32 v)).reverse from rfl, List.map_reverse, map_toNat_quadBytes_le32]
  rfl

/-- Settles O19. -/
theorem wordsAreStoredInTheirByteOrder : Obligations.WordsAreStoredInTheirByteOrder := by
  intro cfg v
  refine ⟨fun h => ?_, fun h => ?_, fun h => ?_, fun h => ?_, unhdr32_hdr32 cfg v, unimm32_imm32 cfg v⟩
  · rw [hdr32, h]; exact map_toNat_quadBytes_le32 v
  · rw [hdr32, h]; exact map_toNat_quadBytes_be32 v
  · rw [imm32, h]; exact map_toNat_quadBytes_be32 v
  · rw [imm32, h]; exact map_toNat_quadBytes_le32 v

/-! ## The control word -/

/-- The word formed from a word's own fields is the word with its reserved bits cleared. -/
theorem controlWord_controlFields (word : Word) :
    controlWord (controlFields word).cmd (controlFields word).s (controlFields word).key (controlFields word).i
      (controlFields word).b (controlFields word).w (controlFields word).reqCount = word &&& 0xFF3FFFFF := by
  unfold controlWord controlFields
  ext j hj
  interval_cases j <;> simp

/-- The fields of a word do not depend on its reserved bits. -/
theorem controlFields_cleared (word : Word) : controlFields (word &&& 0xFF3FFFFF) = controlFields word := by
  rw [← controlWord_controlFields, controlFields_controlWord]

/-- The cleared bits are the reserved ones. -/
theorem reservedBits_cleared (word : Word) : reservedBits (word &&& 0xFF3FFFFF) = 0 := by
  rw [← controlWord_controlFields, reservedBits_controlWord]

/-- A word is its cleared word when its reserved bits are clear. -/
theorem cleared_eq_self_iff (word : Word) : word &&& 0xFF3FFFFF = word ↔ reservedBits word = 0 := by
  refine ⟨fun h => h ▸ reservedBits_cleared word, fun h => ?_⟩
  have hbits : controlBits word = ⟨(controlFields word).s, 0, (controlFields word).i, (controlFields word).b,
      (controlFields word).w⟩ := by rw [← h]; rfl
  rw [← controlWord_controlFields, controlWord_eq_placed, ← hbits, placed_self]

/-- `CTL.DEC` answers a word whose reserved bits are clear with its fields and no flag. -/
theorem exec_ctlDec_of_clear {word : Word} (h : reservedBits word = 0) (st : State) :
    exec (.ctlDec word) st = .next { st with response := some (.ok .none (.fields (controlFields word) 0)) } := by
  simp only [exec, execCtlDec, succeed_eq, h]
  rfl

/-- Settles O22: `rsv` is the bits 23:22, flagged by their value; with them cleared the fields are the same. -/
theorem reservedBitsAreReturned : Obligations.ReservedBitsAreReturned := by
  refine ⟨fun word st => ⟨_, _, _, rfl, toNat_extractLsb'_eq_div_mod word 22 2, bne_iff_ne, ?_⟩,
    fun slot prevValid prev st => ⟨_, _, _, _, _, _, _, _, exec_descDec slot prevValid prev st,
      toNat_extractLsb'_eq_div_mod _ 22 2, ?_⟩⟩
  · rw [exec_ctlDec_of_clear (reservedBits_cleared word), controlFields_cleared]
  · rw [slotFlags_eq]
    exact bne_iff_ne

/-- Settles O23: the fields of a formed word are the ones it was formed from, and a word formed from a word's fields is
the word without its reserved bits. -/
theorem controlWordRoundTrips : Obligations.ControlWordRoundTrips := by
  refine ⟨fun cmd s key i b w n st hn => ⟨_, exec_ctlEnc_of_le cmd s key i b w st hn, ?_⟩,
    fun word st => ⟨_, _, _, rfl, ?_, cleared_eq_self_iff word⟩⟩
  · rw [exec_ctlDec_of_clear (reservedBits_controlWord ..), controlFields_controlWord]
  · have hval : ((controlFields word).reqCount.setWidth 32).toNat = (controlFields word).reqCount.toNat :=
      BitVec.toNat_setWidth_of_le (by decide)
    have hle : ((controlFields word).reqCount.setWidth 32).toNat ≤ 0xFFFF := by
      have := (controlFields word).reqCount.isLt
      omega
    have hcount : ((controlFields word).reqCount.setWidth 32).extractLsb' 0 16 = (controlFields word).reqCount :=
      BitVec.eq_of_toNat_eq ((toNat_lowHalf_of_le hle).trans hval)
    rw [exec_ctlEnc_of_le _ _ _ _ _ _ st hle, hcount, controlWord_controlFields]

/-! ## The status word -/

/-- The word with one half over the other. -/
theorem toNat_join_halves (hi lo : BitVec 16) :
    ((hi.setWidth 32 <<< 16) ||| lo.setWidth 32 : Word).toNat = hi.toNat * 2 ^ 16 + lo.toNat := by
  have hlo : lo.toNat < 2 ^ 16 := lo.isLt
  have hhi : hi.toNat < 2 ^ 16 := hi.isLt
  rw [BitVec.toNat_or, BitVec.toNat_shiftLeft, BitVec.toNat_setWidth_of_le (by decide),
    BitVec.toNat_setWidth_of_le (by decide), Nat.mod_eq_of_lt (by rw [Nat.shiftLeft_eq]; omega),
    ← Nat.shiftLeft_add_eq_or_of_lt hlo, Nat.shiftLeft_eq]

/-- The high half of a word. -/
theorem toNat_highHalf (word : Word) : (word.extractLsb' 16 16).toNat = word.toNat / 2 ^ 16 := by
  have hw := word.isLt
  rw [toNat_extractLsb'_eq_div_mod]
  omega

/-- The low half of a word. -/
theorem toNat_lowHalf (word : Word) : (word.extractLsb' 0 16).toNat = word.toNat % 2 ^ 16 := by
  rw [toNat_extractLsb'_eq_div_mod, pow_zero, Nat.div_one]

/-- Settles O52, by the two places of the transfer status. -/
theorem statDecSplitsTheStatusWord : Obligations.StatDecSplitsTheStatusWord := by
  intro word st
  refine ⟨_, _, _, rfl, ?_, ?_, toNat_eventCodeOf _⟩
  · unfold xferStatusOf
    split
    · exact toNat_highHalf word
    · exact toNat_lowHalf word
  · unfold timeStampOf
    split
    · exact toNat_lowHalf word
    · exact toNat_highHalf word

/-- Settles O53, by the two places of the transfer status. -/
theorem statEncJoinsTheHalves : Obligations.StatEncJoinsTheHalves := by
  intro x t st
  refine ⟨_, rfl, ?_⟩
  unfold statusWord
  split
  · exact toNat_join_halves x t
  · exact toNat_join_halves t x

/-- The high half of a joined word. -/
theorem highHalf_join (hi lo : BitVec 16) :
    ((hi.setWidth 32 <<< 16) ||| lo.setWidth 32 : Word).extractLsb' 16 16 = hi := by
  refine BitVec.eq_of_toNat_eq ?_
  have := lo.isLt
  rw [toNat_highHalf, toNat_join_halves]
  omega

/-- The low half of a joined word. -/
theorem lowHalf_join (hi lo : BitVec 16) :
    ((hi.setWidth 32 <<< 16) ||| lo.setWidth 32 : Word).extractLsb' 0 16 = lo := by
  refine BitVec.eq_of_toNat_eq ?_
  have := lo.isLt
  rw [toNat_lowHalf, toNat_join_halves]
  omega

/-- A word joined from its own halves. -/
theorem join_halves (word : Word) :
    ((word.extractLsb' 16 16).setWidth 32 <<< 16) ||| (word.extractLsb' 0 16).setWidth 32 = word := by
  refine BitVec.eq_of_toNat_eq ?_
  rw [toNat_join_halves, toNat_highHalf, toNat_lowHalf]
  omega

section StatusWord

variable (cfg : Config)

theorem xferStatusOf_statusWord (x t : BitVec 16) : xferStatusOf cfg (statusWord cfg x t) = x := by
  unfold xferStatusOf statusWord
  split
  · exact highHalf_join x t
  · exact lowHalf_join t x

theorem timeStampOf_statusWord (x t : BitVec 16) : timeStampOf cfg (statusWord cfg x t) = t := by
  unfold timeStampOf statusWord
  split
  · exact lowHalf_join x t
  · exact highHalf_join t x

theorem statusWord_halves (word : Word) : statusWord cfg (xferStatusOf cfg word) (timeStampOf cfg word) = word := by
  unfold xferStatusOf timeStampOf statusWord
  split <;> exact join_halves word

end StatusWord

/-- Settles O54. -/
theorem statusWordRoundTrips : Obligations.StatusWordRoundTrips := by
  refine ⟨fun x t st => ⟨_, rfl, ?_⟩, fun word st => ⟨_, _, _, rfl, ?_⟩⟩
  · simp only [exec, execStatDec, succeed_eq, xferStatusOf_statusWord, timeStampOf_statusWord]
    rfl
  · simp only [exec, execStatEnc, succeed_eq, statusWord_halves]

end Sys2Proof.Proofs
end

section
/-! PROOFS. Pointers packed, read back, resolved and checked (rules R30, R70 to R77), and sizes (rule R37). -/

namespace Sys2Proof.Proofs

open Sys2Proof.Machine Sys2Proof.Laws Sys2Proof.Safety

/-- Settles O25. -/
theorem ptrUnpackSplitsThePointer : Obligations.PtrUnpackSplitsThePointer := fun word _ =>
  ⟨_, _, rfl, toNat_unpackAddr word, toNat_unpackZ word⟩

/-- The address half of a packed pointer is the address's. -/
theorem unpackAddr_pack (a z : Word) : unpackAddr (pack a z) = unpackAddr a := by
  refine BitVec.eq_of_toNat_eq ?_
  rw [toNat_unpackAddr, toNat_unpackAddr, toNat_pack]
  omega

/-- The Z half of a packed pointer is that of Z. -/
theorem unpackZ_pack (a z : Word) : unpackZ (pack a z) = unpackZ z := by
  refine BitVec.eq_of_toNat_eq ?_
  rw [toNat_unpackZ, toNat_unpackZ, toNat_pack]
  omega

/-- A word packed from its own halves. -/
theorem pack_unpack (word : Word) : pack (unpackAddr word) ((unpackZ word).setWidth 32) = word := by
  refine BitVec.eq_of_toNat_eq ?_
  rw [toNat_pack, toNat_unpackAddr, BitVec.toNat_setWidth_of_le (by decide), toNat_unpackZ]
  omega

/-- The low four bits of a word are its Z half, on 32 bits. -/
theorem and_15_eq (word : Word) : word &&& 0xF = (unpackZ word).setWidth 32 := by
  refine BitVec.eq_of_toNat_eq ?_
  rw [BitVec.toNat_setWidth_of_le (by decide), toNat_unpackZ, BitVec.toNat_and]
  exact Nat.and_two_pow_sub_one_eq_mod word.toNat 4

/-- Settles O26: unpacking gives each half of what was packed, and packing puts the halves of a word together again. -/
theorem pointerPackingRoundTrips : Obligations.PointerPackingRoundTrips := by
  refine ⟨fun addr z st => ⟨_, exec_ptrPack addr z st, ?low, unpackAddr_pack addr z, ?unpack⟩,
    fun word st => ⟨_, _, rfl, ?pack⟩⟩
  case low => rw [and_15_eq, and_15_eq, unpackZ_pack]
  case unpack =>
    simp only [exec, execPtrUnpack, succeed_eq, unpackAddr_pack, unpackZ_pack]
    rfl
  case pack => rw [exec_ptrPack, pack_unpack]

/-- Settles O31: the pointer's address is the slot's, a multiple of 16 above the base, whatever its Z. -/
theorem idxResolveFindsTheSlot : Obligations.IdxResolveFindsTheSlot := by
  intro base n z st hbase hlt
  refine ⟨_, exec_ptrPack _ z st, ?_⟩
  have hval : (pack (BitVec.ofNat 32 (slotAddress base n)) z).toNat / 16 * 16 = base.toNat + 16 * n := by
    rw [toNat_pack, toNat_word_ofNat_of_lt hlt, slotAddress, Config.slotBytes]
    unfold Aligned at hbase
    omega
  rw [exec_idxResolve_of_offset_eq st (by omega) (by omega), hval, Nat.add_sub_cancel_left,
    Nat.mul_div_cancel_left n (by decide)]

/-! ## The pointer word of `ENC.OLS` -/

/-- A 16-byte descriptor's pointer stands at `W_BRANCH`, whatever else is placed there. -/
theorem wordAt_standardDescriptor (cfg : Config) (w0 dataAddress pointer : Word) :
    wordAt cfg.wBranch (unhdr32 cfg (standardDescriptor cfg w0 dataAddress pointer).w1)
      (unhdr32 cfg (standardDescriptor cfg w0 dataAddress pointer).w2)
      (unhdr32 cfg (standardDescriptor cfg w0 dataAddress pointer).w3) = pointer := by
  simp only [standardDescriptor, header, unhdr32_hdr32]
  cases hp : cfg.wBranch <;> simp [wordAt, standardWord, hp]

/-- `ENC.OLS` of an aligned target succeeds with no flag, and its pointer word is the packed one. -/
theorem exec_encOls_of_aligned {ptrAddr : Word} (h : Aligned ptrAddr) (ptrZ : Word) (s : BitVec 1) (i w : BitVec 2)
    (st : State) :
    ∃ d, exec (.encOls ptrAddr ptrZ s i w) st = .next { st with response := some (.ok .none (.bytes16 d)) } ∧
      wordAt st.cfg.wBranch (unhdr32 st.cfg d.w1) (unhdr32 st.cfg d.w2) (unhdr32 st.cfg d.w3) = pack ptrAddr ptrZ :=
  ⟨_, by rw [exec_encOls, targetError_of_aligned h, checked_none_cons, checked_nil], wordAt_standardDescriptor ..⟩

/-- An aligned address is its own address half. -/
theorem unpackAddr_of_aligned {a : Word} (h : Aligned a) : unpackAddr a = a := by
  refine BitVec.eq_of_toNat_eq ?_
  rw [toNat_unpackAddr]
  unfold Aligned at h
  omega

/-- Settles O32: the pointer holds Z modulo 16, which is not a Z above 15. -/
theorem truncatedZOfEncOlsIsFoundByCheck : Obligations.TruncatedZOfEncOlsIsFoundByCheck := by
  intro ptrAddr ptrZ s i w st ha hz
  obtain ⟨d, hexec, hword⟩ := exec_encOls_of_aligned ha ptrZ s i w st
  refine ⟨d, hexec, _, isPointerWord_pack ptrAddr ptrZ, hword, unpackZ (pack ptrAddr ptrZ), ?_⟩
  have hne : (pack ptrAddr ptrZ).toNat % 16 ≠ ptrZ.toNat := by
    rw [toNat_pack]
    omega
  rw [exec_ptrCheck, unpackAddr_pack, unpackAddr_of_aligned ha, decide_eq_true hne]

/-- Settles O51: the pointer's Z is not 0 and its address is. -/
theorem nullPointerIsFoundAfterwards : Obligations.NullPointerIsFoundAfterwards := by
  intro ptrZ s i w st hz
  obtain ⟨d, hexec, hword⟩ := exec_encOls_of_aligned (ptrAddr := 0) rfl ptrZ s i w st
  refine ⟨d, _, hexec, hword, ?_⟩
  have hval : (pack 0 ptrZ).toNat = ptrZ.toNat % 16 := by
    rw [toNat_pack]
    simp
  have hz' : ptrZ.toNat % 16 % 16 ≠ 0 := by omega
  have ha : ptrZ.toNat % 16 / 16 = 0 := by omega
  simp only [exec_ptrClass, classify_eq, hval, hz', ha, ne_eq, not_false_eq_true, and_self, decide_true, decide_false,
    if_true, if_false]

/-- Settles O39. -/
theorem outputLastOfNothingIsASkip : Obligations.OutputLastOfNothingIsASkip := fun ptrAddr ptrZ s i w st =>
  (exec_encOl_zero_zero ptrAddr ptrZ s i w st).symm

/-! ## Sizes -/

/-- A response carries whole slots: none, one or two. -/
theorem dvd_length_encodedBytes (r : Response) : 16 ∣ (encodedBytes r).length := by
  unfold encodedBytes
  split
  · exact ⟨1, rfl⟩
  · exact ⟨2, rfl⟩
  · exact ⟨0, rfl⟩
  · exact ⟨0, rfl⟩

/-- So does what a requester assembles. -/
theorem dvd_length_assembled (rs : List Response) : 16 ∣ (assembled rs).length := by
  induction rs with
  | nil => exact ⟨0, rfl⟩
  | cons r rs ih =>
    have hcons : assembled (r :: rs) = encodedBytes r ++ assembled rs := List.flatMap_cons
    rw [hcons, List.length_append]
    exact dvd_add (dvd_length_encodedBytes r) ih

/-- Settles O60: the ceiling of a whole number of slots is that number. -/
theorem assembledBytesAreWholeSlots : Obligations.AssembledBytesAreWholeSlots := by
  intro rs st hlt
  obtain ⟨k, hk⟩ := dvd_length_assembled rs
  refine ⟨_, exec_zval _ st, ?_⟩
  rw [toNat_word_ofNat_of_lt (slotsFor_lt _), toNat_word_ofNat_of_lt hlt, slotsFor, Config.slotBytes, hk]
  omega

end Sys2Proof.Proofs
end

section
/-! PROOFS. Descriptors read back, written back and diagnosed (rules R93, R100, R105, R106). -/

namespace Sys2Proof.Proofs

open Sys2Proof.Machine Sys2Proof.Laws Sys2Proof.Safety

/-! ## Signatures -/

/-- Where a terminal kind holds its branch pointer. -/
theorem pointerPlace_of_isTerminal {kind : Kind} (h : isTerminal kind = true) (cfg : Config) :
    pointerPlace cfg kind = some (if kind = .outputLastImmediate then cfg.wImmPtr else cfg.wBranch) := by
  obtain ⟨-, -, -, hol, holi, hols, -⟩ := pointerWordByKind cfg
  cases kind with
  | outputLast => exact hol
  | outputLastImmediate => exact holi
  | outputLastSkip => exact hols
  | storeValue | outputMore | outputMoreImmediate | unknown => cases h

/-- Settles O48: each tag stands for its flag, and on a terminal kind the pointer flags are the branch pointer's. -/
theorem signaturesAreReportedTogether : Obligations.SignaturesAreReportedTogether := by
  intro slot prevValid prev st
  refine ⟨_, _, _, _, _, _, _, _, _, _, rfl, exec_descDec slot prevValid prev st, at_wordAt _ _ _ _, ?terminal, ?uninit,
    ?stop, ?null⟩
  case terminal =>
    generalize (if uninitFlag slot = true then Kind.unknown else _) = kind
    cases kind <;> simp [isTerminal]
  case uninit =>
    rw [mem_signatures_uninit, slotFlags_eq]
    exact uninitFlag_iff_allFill slot
  case stop =>
    rw [mem_signatures_stop, and_comm]
    refine and_congr_right fun hterm => ?_
    rw [slotFlags_of_pointerPlace (pointerPlace_of_isTerminal hterm st.cfg)]
    exact decide_eq_true_iff
  case null =>
    rw [mem_signatures_null, and_comm]
    refine and_congr_right fun hterm => ?_
    rw [slotFlags_of_pointerPlace (pointerPlace_of_isTerminal hterm st.cfg)]
    exact decide_eq_true_iff

/-! ## Reports on a slot by its words -/

/-- `DESC.DEC` answers a slot of given words that is not the fill pattern with the report on these words. -/
theorem exec_descDec_encodeSlot {st : State} {w0 w1 w2 w3 : Word}
    (hu : uninitFlag (encodeSlot st.cfg w0 w1 w2 w3) = false) (prevValid : BitVec 1) (prev : Bytes16) :
    exec (.descDec (encodeSlot st.cfg w0 w1 w2 w3) prevValid prev) st = .next { st with
      response := some (slotReport st.cfg (selectKind st.cfg (controlFields w0)) (controlFields w0) (reservedBits w0)
        false (secondHalfFlag st.cfg prevValid prev) w1 w2 w3) } := by
  simp only [exec_descDec, describeSlot, hu, encodeSlot_w0, encodeSlot_w1, encodeSlot_w2, encodeSlot_w3, unhdr32_hdr32,
    Bool.false_eq_true, if_false]

/-- Settles O50: the kind is read from the control word and the flags from the pointer word, which stands elsewhere. -/
theorem statusWriteBackChangesOnlyTheStatusWord : Obligations.StatusWriteBackChangesOnlyTheStatusWord := by
  intro w0 w1 w2 w3 u1 u2 u3 v prevValid prev st hcfg hcmd hkey hu1 hu2 hu3
  obtain ⟨hpairs, -, -, hplaces⟩ := (wellFormed_iff st.cfg).mp hcfg
  obtain ⟨-, hsb, -⟩ := places_ne hplaces
  obtain ⟨-, -, -, hol, -, hols, -⟩ := pointerWordByKind st.cfg
  have hkind := selectKind_of_outputLast_pair hpairs (f := controlFields w0) hcmd hkey
  have hu (x1 x2 x3 : Word) : uninitFlag (encodeSlot st.cfg w0 x1 x2 x3) = false :=
    uninitFlag_of_selectKind_ne hcfg (by rw [encodeSlot_w0, unhdr32_hdr32, hkind]; split <;> decide)
  have hptr : wordAt st.cfg.wBranch u1 u2 u3 = wordAt st.cfg.wBranch w1 w2 w3 := by
    subst hu1 hu2 hu3
    cases hb : st.cfg.wBranch <;> simp_all [wordAt]
  have hplace : pointerPlace st.cfg (selectKind st.cfg (controlFields w0)) = some st.cfg.wBranch := by
    rw [hkind]
    split
    · exact hols
    · exact hol
  refine ⟨_, _, _, _, _, exec_descDec_encodeSlot (hu w1 w2 w3) prevValid prev, ?_, ?_⟩
  · rw [exec_descDec_encodeSlot (hu u1 u2 u3), slotReport, slotFlags_of_pointerPlace hplace, hptr,
      ← slotFlags_of_pointerPlace hplace]
  · rw [hkind]
    split
    · exact .inr rfl
    · exact .inl rfl

/-! ## Reading back what an encoder wrote -/

/-- An operation that answers a result has passed its checks. -/
theorem checks_eq_none_of_ok {checks : List (Option Err)} {v v' : Result} {fl : Flags} {st : State}
    (h : checked checks v st = .next { st with response := some (.ok fl v') }) : ∀ c ∈ checks, c = none := by
  obtain ⟨e, -, he⟩ | ⟨hnone, -⟩ := checked_cases checks v st
  · simp [he] at h
  · exact hnone

/-- A target that passes its check is aligned. -/
theorem aligned_of_targetError {a : Word} (h : targetError a = none) : Aligned a := by
  by_contra ha
  simp [targetError_of_not_aligned ha] at h

/-- A count that passes its check is in range. -/
theorem le_of_rangeError {n : Word} (h : rangeError n = none) : n.toNat ≤ 0xFFFF := by
  by_contra hn
  simp [rangeError_of_lt (Nat.lt_of_not_le hn)] at h

/-- A count in range is 0 when its low half is. -/
theorem lowHalf_eq_zero_iff {n : Word} (h : n.toNat ≤ 0xFFFF) : n.extractLsb' 0 16 = 0 ↔ n = 0 := by
  rw [← BitVec.toNat_inj, ← BitVec.toNat_inj, toNat_lowHalf_of_le h]
  rfl

section Header

variable {st : State} (hcfg : st.cfg.wellFormed = true) {kind : Kind} {cmd : BitVec 4} {s : BitVec 1} {key : BitVec 3}
  {i b w : BitVec 2} {n : BitVec 16} (hkind : selectKind st.cfg ⟨cmd, s, key, i, b, w, n⟩ = kind)
  (word : WordPlace → Word) (prev : Bytes16)
include hcfg hkind

/-- `DESC.DEC` of an encoded header, with no slot before it. -/
theorem exec_descDec_header (hne : kind ≠ .unknown) :
    exec (.descDec (header st.cfg (controlWord cmd s key i b w n) word) 0 prev) st = .next { st with
      response := some (slotReport st.cfg kind ⟨cmd, s, key, i, b, w, n⟩ 0 false false
        (word .w1) (word .w2) (word .w3)) } := by
  have hk : selectKind st.cfg (controlFields (controlWord cmd s key i b w n)) = kind := by
    rwa [controlFields_controlWord]
  have hu : uninitFlag (encodeSlot st.cfg (controlWord cmd s key i b w n) (word .w1) (word .w2) (word .w3)) = false :=
    uninitFlag_of_selectKind_ne hcfg (by rwa [encodeSlot_w0, unhdr32_hdr32, hk])
  refine (exec_descDec_encodeSlot hu 0 prev).trans ?_
  rw [hk, controlFields_controlWord, reservedBits_controlWord]
  rfl

/-- `DESC.DEC` of an encoded header whose pointer word packs an aligned address and a Z. -/
theorem exec_descDec_header_of_pointer {p : WordPlace} (hp : pointerPlace st.cfg kind = some p) {addr z : Word}
    (ha : Aligned addr) (hword : word p = pack addr z) {size : Nat} (hsize : sizeOfKey key = size) :
    ∃ w1 w2 w3, exec (.descDec (header st.cfg (controlWord cmd s key i b w n) word) 0 prev) st = .next { st with
      response := some (.ok
        { stop := decide (z.toNat % 16 = 0), nullNonzeroZ := decide (z.toNat % 16 ≠ 0 ∧ addr.toNat = 0) }
        (.descriptor kind ⟨cmd, s, key, i, b, w, n⟩ 0 size w1 w2 w3)) } := by
  obtain ⟨-, -, -, -, -, -, hunk⟩ := pointerWordByKind st.cfg
  have hne : kind ≠ .unknown := by
    rintro rfl
    simp [hunk] at hp
  have hptr : wordAt p (word .w1) (word .w2) (word .w3) = pack addr z := by
    rw [← hword]
    cases p <;> rfl
  have hz : (pack addr z).toNat % 16 = z.toNat % 16 := by
    rw [toNat_pack]
    omega
  have haddr : (pack addr z).toNat / 16 = 0 ↔ addr.toNat = 0 := by
    rw [toNat_pack]
    unfold Aligned at ha
    omega
  refine ⟨word .w1, word .w2, word .w3, (exec_descDec_header hcfg hkind word prev hne).trans ?_⟩
  simp only [slotReport, slotFlags_of_pointerPlace hp, hptr, hz, haddr, hsize]
  rfl

/-- `DESC.DEC` of an encoded header of a variant that has no pointer. -/
theorem exec_descDec_header_of_no_pointer (hne : kind ≠ .unknown) (hp : pointerPlace st.cfg kind = none) {size : Nat}
    (hsize : sizeOfKey key = size) :
    ∃ w1 w2 w3, exec (.descDec (header st.cfg (controlWord cmd s key i b w n) word) 0 prev) st = .next { st with
      response := some (.ok .none (.descriptor kind ⟨cmd, s, key, i, b, w, n⟩ 0 size w1 w2 w3)) } := by
  refine ⟨word .w1, word .w2, word .w3, (exec_descDec_header hcfg hkind word prev hne).trans ?_⟩
  simp only [slotReport, slotFlags_of_no_pointer hp, hsize]
  rfl

end Header

/-- A well-formed configuration gives its standard and store keys 16 bytes: neither is the immediate key. -/
theorem sizeOfKey_of_wellFormed {cfg : Config} (h : cfg.wellFormed = true) :
    sizeOfKey cfg.keyStandard = 16 ∧ sizeOfKey cfg.keyStore = 16 := by
  obtain ⟨hpairs, hstore, -⟩ := (wellFormed_iff cfg).mp h
  have htable := selectionTable hpairs ⟨cfg.cmdOutputMore, 0, cfg.keyStandard, 0, 0, 0, 0⟩
  have hstandard : cfg.keyStandard ≠ Config.keyImmediate := fun hk =>
    nomatch (htable.outputMore.mpr ⟨rfl, rfl⟩).symm.trans (htable.outputMoreImmediate.mpr ⟨rfl, hk⟩)
  exact ⟨if_neg hstandard, if_neg hstore⟩

section Encoders

variable {st : State} (hcfg : st.cfg.wellFormed = true) {dataAddress ptrAddr ptrZ : Word} {s : BitVec 1} {i w : BitVec 2}
  (prev : Bytes16)
include hcfg

/-- What `ENC.SV` wrote is a StoreValue. -/
theorem exec_descDec_of_encSv {value : BitVec 16} {d : Bytes16}
    (h : exec (.encSv value dataAddress ptrAddr ptrZ s i w) st =
      .next { st with response := some (.ok .none (.bytes16 d)) }) :
    ∃ w1 w2 w3, exec (.descDec d 0 prev) st = .next { st with response := some (.ok
      { stop := decide (ptrZ.toNat % 16 = 0), nullNonzeroZ := decide (ptrZ.toNat % 16 ≠ 0 ∧ ptrAddr.toNat = 0) }
      (.descriptor .storeValue ⟨st.cfg.cmdStoreValue, s, st.cfg.keyStore, i, st.cfg.bNever, w, value⟩
        0 16 w1 w2 w3)) } := by
  obtain ⟨hpairs, -⟩ := (wellFormed_iff st.cfg).mp hcfg
  obtain ⟨hsv, -⟩ := pointerWordByKind st.cfg
  have ht := aligned_of_targetError (checks_eq_none_of_ok h _ (.head _))
  obtain rfl := Result.bytes16.inj (result_of_checked_eq_ok h)
  obtain ⟨-, hsize⟩ := sizeOfKey_of_wellFormed hcfg
  exact exec_descDec_header_of_pointer hcfg ((selectionTable hpairs _).storeValue.mpr ⟨rfl, rfl⟩) _ prev hsv ht
    (if_pos rfl) hsize

/-- What `ENC.OM` wrote is an OutputMore, with no flag. -/
theorem exec_descDec_of_encOm {reqCount : Word} {d : Bytes16}
    (h : exec (.encOm reqCount dataAddress s i w) st =
      .next { st with response := some (.ok .none (.bytes16 d)) }) :
    ∃ w1 w2 w3, exec (.descDec d 0 prev) st = .next { st with response := some (.ok .none
      (.descriptor .outputMore
        ⟨st.cfg.cmdOutputMore, s, st.cfg.keyStandard, i, st.cfg.bNever, w, reqCount.extractLsb' 0 16⟩
        0 16 w1 w2 w3)) } := by
  obtain ⟨hpairs, -⟩ := (wellFormed_iff st.cfg).mp hcfg
  obtain ⟨-, hom, -⟩ := pointerWordByKind st.cfg
  obtain rfl := Result.bytes16.inj (result_of_checked_eq_ok h)
  obtain ⟨hsize, -⟩ := sizeOfKey_of_wellFormed hcfg
  exact exec_descDec_header_of_no_pointer hcfg ((selectionTable hpairs _).outputMore.mpr ⟨rfl, rfl⟩) _ prev (by decide)
    hom hsize

/-- What `ENC.OL` wrote is an OutputLast or, with count 0, an OutputLastSkip. -/
theorem exec_descDec_of_encOl {reqCount : Word} {d : Bytes16}
    (h : exec (.encOl reqCount dataAddress ptrAddr ptrZ s i w) st =
      .next { st with response := some (.ok .none (.bytes16 d)) }) :
    ∃ w1 w2 w3, exec (.descDec d 0 prev) st = .next { st with response := some (.ok
      { stop := decide (ptrZ.toNat % 16 = 0), nullNonzeroZ := decide (ptrZ.toNat % 16 ≠ 0 ∧ ptrAddr.toNat = 0) }
      (.descriptor (if reqCount = 0 then .outputLastSkip else .outputLast)
        ⟨1, s, st.cfg.keyStandard, i, st.cfg.bAlways, w, reqCount.extractLsb' 0 16⟩ 0 16 w1 w2 w3)) } := by
  obtain ⟨hpairs, -⟩ := (wellFormed_iff st.cfg).mp hcfg
  obtain ⟨-, -, -, hol, -, hols, -⟩ := pointerWordByKind st.cfg
  have hn := le_of_rangeError (checks_eq_none_of_ok h _ (.head _))
  have ht := aligned_of_targetError (checks_eq_none_of_ok h _ (.tail _ (.head _)))
  obtain rfl := Result.bytes16.inj (result_of_checked_eq_ok h)
  have hplace : pointerPlace st.cfg (if reqCount = 0 then .outputLastSkip else .outputLast) = some st.cfg.wBranch := by
    split
    · exact hols
    · exact hol
  obtain ⟨hsize, -⟩ := sizeOfKey_of_wellFormed hcfg
  refine exec_descDec_header_of_pointer hcfg ?_ _ prev hplace ht (if_pos rfl) hsize
  simp only [selectKind_of_outputLast_pair hpairs, lowHalf_eq_zero_iff hn]

/-- The first slot of what `ENC.OMI` wrote is an OutputMoreImmediate. -/
theorem exec_descDec_of_encOmi {q0 q1 : Word} {d : Bytes32}
    (h : exec (.encOmi q0 q1 ptrAddr ptrZ s i w) st =
      .next { st with response := some (.ok .none (.bytes32 d)) }) :
    ∃ w1 w2 w3, exec (.descDec d.first 0 prev) st = .next { st with response := some (.ok
      { stop := decide (ptrZ.toNat % 16 = 0), nullNonzeroZ := decide (ptrZ.toNat % 16 ≠ 0 ∧ ptrAddr.toNat = 0) }
      (.descriptor .outputMoreImmediate ⟨st.cfg.cmdOutputMore, s, 2, i, st.cfg.bNever, w, st.cfg.immReq⟩
        0 32 w1 w2 w3)) } := by
  obtain ⟨hpairs, -⟩ := (wellFormed_iff st.cfg).mp hcfg
  obtain ⟨-, -, homi, -⟩ := pointerWordByKind st.cfg
  have ht := aligned_of_targetError (checks_eq_none_of_ok h _ (.head _))
  obtain rfl := Result.bytes32.inj (result_of_checked_eq_ok h)
  exact exec_descDec_header_of_pointer hcfg ((selectionTable hpairs _).outputMoreImmediate.mpr ⟨rfl, rfl⟩) _ prev homi ht
    (if_pos rfl) rfl

/-- The first slot of what `ENC.OLI` wrote is an OutputLastImmediate. -/
theorem exec_descDec_of_encOli {q0 q1 : Word} {d : Bytes32}
    (h : exec (.encOli q0 q1 ptrAddr ptrZ s i w) st =
      .next { st with response := some (.ok .none (.bytes32 d)) }) :
    ∃ w1 w2 w3, exec (.descDec d.first 0 prev) st = .next { st with response := some (.ok
      { stop := decide (ptrZ.toNat % 16 = 0), nullNonzeroZ := decide (ptrZ.toNat % 16 ≠ 0 ∧ ptrAddr.toNat = 0) }
      (.descriptor .outputLastImmediate ⟨1, s, 2, i, st.cfg.bAlways, w, st.cfg.immReq⟩ 0 32 w1 w2 w3)) } := by
  obtain ⟨hpairs, -⟩ := (wellFormed_iff st.cfg).mp hcfg
  obtain ⟨-, -, -, -, holi, -⟩ := pointerWordByKind st.cfg
  have ht := aligned_of_targetError (checks_eq_none_of_ok h _ (.head _))
  obtain rfl := Result.bytes32.inj (result_of_checked_eq_ok h)
  exact exec_descDec_header_of_pointer hcfg ((selectionTable hpairs _).outputLastImmediate.mpr ⟨rfl, rfl⟩) _ prev holi ht
    (if_pos rfl) rfl

end Encoders

/-- Settles O46: what each encoder writes selects its variant; `ENC.OLS` writes what `ENC.OL` does of nothing. -/
theorem descDecReadsBackStandardDescriptors : Obligations.DescDecReadsBackStandardDescriptors := by
  intro st value reqCount dataAddress ptrAddr ptrZ s i w d prev hcfg
  refine ⟨exec_descDec_of_encSv hcfg prev, exec_descDec_of_encOm hcfg prev, exec_descDec_of_encOl hcfg prev, fun h => ?_⟩
  rw [← exec_encOl_zero_zero] at h
  exact exec_descDec_of_encOl hcfg prev h

/-- A slot after one whose key is the immediate key is flagged as a second half. -/
theorem exec_descDec_after_immediate {prev : Bytes16} {st : State}
    (h : (controlFields (unhdr32 st.cfg prev.w0)).key = Config.keyImmediate) (slot : Bytes16) :
    ∃ fl v, exec (.descDec slot 1 prev) st = .next { st with response := some (.ok fl v) } ∧ fl.secondHalf = true := by
  refine ⟨_, _, exec_descDec slot 1 prev st, ?_⟩
  rw [slotFlags_eq]
  exact (secondHalfFlag_iff st.cfg 1 prev).mpr ⟨rfl, h⟩

/-- An immediate descriptor's first slot has the key it was encoded with. -/
theorem key_immediateDescriptor (cfg : Config) (cmd : BitVec 4) (s : BitVec 1) (key : BitVec 3) (i b w : BitVec 2)
    (n : BitVec 16) (pointer q0 q1 : Word) :
    (controlFields (unhdr32 cfg (immediateDescriptor cfg (controlWord cmd s key i b w n) pointer q0 q1).first.w0)).key =
      key := by
  rw [immediateDescriptor, header, unhdr32_hdr32, controlFields_controlWord]

/-- Settles O47: the first slot selects the variant, and its key marks the second. -/
theorem descDecReadsBackImmediateDescriptors : Obligations.DescDecReadsBackImmediateDescriptors := by
  intro st q0 q1 ptrAddr ptrZ s i w d prev hcfg
  refine ⟨fun h => ⟨exec_descDec_of_encOmi hcfg prev h, ?_⟩, fun h => ⟨exec_descDec_of_encOli hcfg prev h, ?_⟩⟩
  · obtain rfl := Result.bytes32.inj (result_of_checked_eq_ok h)
    exact exec_descDec_after_immediate (key_immediateDescriptor ..) _
  · obtain rfl := Result.bytes32.inj (result_of_checked_eq_ok h)
    exact exec_descDec_after_immediate (key_immediateDescriptor ..) _

end Sys2Proof.Proofs
end
